-- ==== Sys2Proof/Word.lean ====
section
/-! DEFINITION. The word and byte types (00_scope.md R5, R7). -/

namespace Sys2Proof

/-- A register value, an address or an instruction word: 32 bits (00_scope.md R5). Addition and
subtraction wrap modulo 2^32 and comparison is unsigned (R7), as on `BitVec`. -/
abbrev Word := BitVec 32

/-- The addressable unit of memory (20_memory.md R51). -/
abbrev Byte := BitVec 8

end Sys2Proof
end

