-- ==== Sys2Proof/Syntax.lean ====
section
/-! DEFINITION. The instructions: one constructor of `Instr` per row of spec/opcode_table.json
(30_encoding.md R93), with every field of the row, the don't-care fields included, so that
decoding loses no bit of a word (R88). -/

namespace Sys2Proof

/-- The sixteen values of the condition field, in the order of their encodings
(40_decode_condition.md R104). `nv` is the value 0xF the source marks "(reserved)"; it passes
always, as `al` does (30_encoding.md R95). -/
inductive Cond where
  | eq | ne | cs | cc | mi | pl | vs | vc | hi | ls | ge | lt | gt | le | al | nv
  deriving DecidableEq, Repr

/-- A register field of an instruction: four bits, R0 to R15 (10_state.md R23). -/
abbrev RegNum := Fin 16

/-- The four shift types, in the order of their encodings (41_barrel_shifter.md R132). -/
inductive ShiftType where
  | lsl | lsr | asr | ror
  deriving DecidableEq, Repr

/-- The sixteen data-processing operations, in the order of their encodings (30_encoding.md R89). -/
inductive DpOp where
  | and | eor | sub | rsb | add | adc | sbc | rsc | tst | teq | cmp | cmn | orr | mov | bic | mvn
  deriving DecidableEq, Repr

/-- The four load/store instructions (30_encoding.md R91). -/
inductive LsOp where
  | ldr | ldrb | str | strb
  deriving DecidableEq, Repr

/-- The family of a word (40_decode_condition.md R103). -/
inductive Family where
  | dataProc | loadStore | branch | illegal
  deriving DecidableEq, Repr

/-- The instructions. Shift amounts and immediate offsets are integers, bounded by `WellFormed`;
every other field has exactly the values its bits have. -/
inductive Instr where
  /-- AND, format DP_RSI (30_encoding.md R82, R89). -/
  | andRsi (cond : Cond) (sBit : Bool) (rn rd : RegNum) (shamt5 : Nat) (shift : ShiftType) (rm : RegNum)
  /-- AND, format DP_RSR (30_encoding.md R83, R89). -/
  | andRsr (cond : Cond) (sBit : Bool) (rn rd rs : RegNum) (ignored7 : Bool) (shift : ShiftType) (rm : RegNum)
  /-- EOR, format DP_RSI (30_encoding.md R82, R89). -/
  | eorRsi (cond : Cond) (sBit : Bool) (rn rd : RegNum) (shamt5 : Nat) (shift : ShiftType) (rm : RegNum)
  /-- EOR, format DP_RSR (30_encoding.md R83, R89). -/
  | eorRsr (cond : Cond) (sBit : Bool) (rn rd rs : RegNum) (ignored7 : Bool) (shift : ShiftType) (rm : RegNum)
  /-- SUB, format DP_RSI (30_encoding.md R82, R89). -/
  | subRsi (cond : Cond) (sBit : Bool) (rn rd : RegNum) (shamt5 : Nat) (shift : ShiftType) (rm : RegNum)
  /-- SUB, format DP_RSR (30_encoding.md R83, R89). -/
  | subRsr (cond : Cond) (sBit : Bool) (rn rd rs : RegNum) (ignored7 : Bool) (shift : ShiftType) (rm : RegNum)
  /-- RSB, format DP_RSI (30_encoding.md R82, R89). -/
  | rsbRsi (cond : Cond) (sBit : Bool) (rn rd : RegNum) (shamt5 : Nat) (shift : ShiftType) (rm : RegNum)
  /-- RSB, format DP_RSR (30_encoding.md R83, R89). -/
  | rsbRsr (cond : Cond) (sBit : Bool) (rn rd rs : RegNum) (ignored7 : Bool) (shift : ShiftType) (rm : RegNum)
  /-- ADD, format DP_RSI (30_encoding.md R82, R89). -/
  | addRsi (cond : Cond) (sBit : Bool) (rn rd : RegNum) (shamt5 : Nat) (shift : ShiftType) (rm : RegNum)
  /-- ADD, format DP_RSR (30_encoding.md R83, R89). -/
  | addRsr (cond : Cond) (sBit : Bool) (rn rd rs : RegNum) (ignored7 : Bool) (shift : ShiftType) (rm : RegNum)
  /-- ADC, format DP_RSI (30_encoding.md R82, R89). -/
  | adcRsi (cond : Cond) (sBit : Bool) (rn rd : RegNum) (shamt5 : Nat) (shift : ShiftType) (rm : RegNum)
  /-- ADC, format DP_RSR (30_encoding.md R83, R89). -/
  | adcRsr (cond : Cond) (sBit : Bool) (rn rd rs : RegNum) (ignored7 : Bool) (shift : ShiftType) (rm : RegNum)
  /-- SBC, format DP_RSI (30_encoding.md R82, R89). -/
  | sbcRsi (cond : Cond) (sBit : Bool) (rn rd : RegNum) (shamt5 : Nat) (shift : ShiftType) (rm : RegNum)
  /-- SBC, format DP_RSR (30_encoding.md R83, R89). -/
  | sbcRsr (cond : Cond) (sBit : Bool) (rn rd rs : RegNum) (ignored7 : Bool) (shift : ShiftType) (rm : RegNum)
  /-- RSC, format DP_RSI (30_encoding.md R82, R89). -/
  | rscRsi (cond : Cond) (sBit : Bool) (rn rd : RegNum) (shamt5 : Nat) (shift : ShiftType) (rm : RegNum)
  /-- RSC, format DP_RSR (30_encoding.md R83, R89). -/
  | rscRsr (cond : Cond) (sBit : Bool) (rn rd rs : RegNum) (ignored7 : Bool) (shift : ShiftType) (rm : RegNum)
  /-- TST, format DP_RSI (30_encoding.md R82, R89). -/
  | tstRsi (cond : Cond) (sBit : Bool) (rn rd : RegNum) (shamt5 : Nat) (shift : ShiftType) (rm : RegNum)
  /-- TST, format DP_RSR (30_encoding.md R83, R89). -/
  | tstRsr (cond : Cond) (sBit : Bool) (rn rd rs : RegNum) (ignored7 : Bool) (shift : ShiftType) (rm : RegNum)
  /-- TEQ, format DP_RSI (30_encoding.md R82, R89). -/
  | teqRsi (cond : Cond) (sBit : Bool) (rn rd : RegNum) (shamt5 : Nat) (shift : ShiftType) (rm : RegNum)
  /-- TEQ, format DP_RSR (30_encoding.md R83, R89). -/
  | teqRsr (cond : Cond) (sBit : Bool) (rn rd rs : RegNum) (ignored7 : Bool) (shift : ShiftType) (rm : RegNum)
  /-- CMP, format DP_RSI (30_encoding.md R82, R89). -/
  | cmpRsi (cond : Cond) (sBit : Bool) (rn rd : RegNum) (shamt5 : Nat) (shift : ShiftType) (rm : RegNum)
  /-- CMP, format DP_RSR (30_encoding.md R83, R89). -/
  | cmpRsr (cond : Cond) (sBit : Bool) (rn rd rs : RegNum) (ignored7 : Bool) (shift : ShiftType) (rm : RegNum)
  /-- CMN, format DP_RSI (30_encoding.md R82, R89). -/
  | cmnRsi (cond : Cond) (sBit : Bool) (rn rd : RegNum) (shamt5 : Nat) (shift : ShiftType) (rm : RegNum)
  /-- CMN, format DP_RSR (30_encoding.md R83, R89). -/
  | cmnRsr (cond : Cond) (sBit : Bool) (rn rd rs : RegNum) (ignored7 : Bool) (shift : ShiftType) (rm : RegNum)
  /-- ORR, format DP_RSI (30_encoding.md R82, R89). -/
  | orrRsi (cond : Cond) (sBit : Bool) (rn rd : RegNum) (shamt5 : Nat) (shift : ShiftType) (rm : RegNum)
  /-- ORR, format DP_RSR (30_encoding.md R83, R89). -/
  | orrRsr (cond : Cond) (sBit : Bool) (rn rd rs : RegNum) (ignored7 : Bool) (shift : ShiftType) (rm : RegNum)
  /-- MOV, format DP_RSI (30_encoding.md R82, R89). -/
  | movRsi (cond : Cond) (sBit : Bool) (rn rd : RegNum) (shamt5 : Nat) (shift : ShiftType) (rm : RegNum)
  /-- MOV, format DP_RSR (30_encoding.md R83, R89). -/
  | movRsr (cond : Cond) (sBit : Bool) (rn rd rs : RegNum) (ignored7 : Bool) (shift : ShiftType) (rm : RegNum)
  /-- BIC, format DP_RSI (30_encoding.md R82, R89). -/
  | bicRsi (cond : Cond) (sBit : Bool) (rn rd : RegNum) (shamt5 : Nat) (shift : ShiftType) (rm : RegNum)
  /-- BIC, format DP_RSR (30_encoding.md R83, R89). -/
  | bicRsr (cond : Cond) (sBit : Bool) (rn rd rs : RegNum) (ignored7 : Bool) (shift : ShiftType) (rm : RegNum)
  /-- MVN, format DP_RSI (30_encoding.md R82, R89). -/
  | mvnRsi (cond : Cond) (sBit : Bool) (rn rd : RegNum) (shamt5 : Nat) (shift : ShiftType) (rm : RegNum)
  /-- MVN, format DP_RSR (30_encoding.md R83, R89). -/
  | mvnRsr (cond : Cond) (sBit : Bool) (rn rd rs : RegNum) (ignored7 : Bool) (shift : ShiftType) (rm : RegNum)
  /-- LDR, immediate offset, pre-indexed (30_encoding.md R86, R91). -/
  | ldrImmPre (cond : Cond) (u ignored21 : Bool) (rn rd : RegNum) (imm12 : Nat)
  /-- LDRB, immediate offset, pre-indexed (30_encoding.md R86, R91). -/
  | ldrbImmPre (cond : Cond) (u ignored21 : Bool) (rn rd : RegNum) (imm12 : Nat)
  /-- STR, immediate offset, pre-indexed (30_encoding.md R86, R91). -/
  | strImmPre (cond : Cond) (u ignored21 : Bool) (rn rd : RegNum) (imm12 : Nat)
  /-- STRB, immediate offset, pre-indexed (30_encoding.md R86, R91). -/
  | strbImmPre (cond : Cond) (u ignored21 : Bool) (rn rd : RegNum) (imm12 : Nat)
  /-- LDR, immediate offset, post-indexed (30_encoding.md R86, R91). -/
  | ldrImmPost (cond : Cond) (u ignored21 : Bool) (rn rd : RegNum) (imm12 : Nat)
  /-- LDRB, immediate offset, post-indexed (30_encoding.md R86, R91). -/
  | ldrbImmPost (cond : Cond) (u ignored21 : Bool) (rn rd : RegNum) (imm12 : Nat)
  /-- STR, immediate offset, post-indexed (30_encoding.md R86, R91). -/
  | strImmPost (cond : Cond) (u ignored21 : Bool) (rn rd : RegNum) (imm12 : Nat)
  /-- STRB, immediate offset, post-indexed (30_encoding.md R86, R91). -/
  | strbImmPost (cond : Cond) (u ignored21 : Bool) (rn rd : RegNum) (imm12 : Nat)
  /-- LDR, register offset, pre-indexed (30_encoding.md R87, R91). -/
  | ldrRegPre (cond : Cond) (u ignored21 : Bool) (rn rd : RegNum) (ignored11to4 : BitVec 8) (rm : RegNum)
  /-- LDRB, register offset, pre-indexed (30_encoding.md R87, R91). -/
  | ldrbRegPre (cond : Cond) (u ignored21 : Bool) (rn rd : RegNum) (ignored11to4 : BitVec 8) (rm : RegNum)
  /-- STR, register offset, pre-indexed (30_encoding.md R87, R91). -/
  | strRegPre (cond : Cond) (u ignored21 : Bool) (rn rd : RegNum) (ignored11to4 : BitVec 8) (rm : RegNum)
  /-- STRB, register offset, pre-indexed (30_encoding.md R87, R91). -/
  | strbRegPre (cond : Cond) (u ignored21 : Bool) (rn rd : RegNum) (ignored11to4 : BitVec 8) (rm : RegNum)
  /-- LDR, register offset, post-indexed (30_encoding.md R87, R91). -/
  | ldrRegPost (cond : Cond) (u ignored21 : Bool) (rn rd : RegNum) (ignored11to4 : BitVec 8) (rm : RegNum)
  /-- LDRB, register offset, post-indexed (30_encoding.md R87, R91). -/
  | ldrbRegPost (cond : Cond) (u ignored21 : Bool) (rn rd : RegNum) (ignored11to4 : BitVec 8) (rm : RegNum)
  /-- STR, register offset, post-indexed (30_encoding.md R87, R91). -/
  | strRegPost (cond : Cond) (u ignored21 : Bool) (rn rd : RegNum) (ignored11to4 : BitVec 8) (rm : RegNum)
  /-- STRB, register offset, post-indexed (30_encoding.md R87, R91). -/
  | strbRegPost (cond : Cond) (u ignored21 : Bool) (rn rd : RegNum) (ignored11to4 : BitVec 8) (rm : RegNum)
  /-- LDR, register offset, pre-indexed, a word with `iw[27:25] = 001` (30_encoding.md R87, R91). -/
  | ldrAlias001Pre (cond : Cond) (u ignored21 : Bool) (rn rd : RegNum) (ignored11to4 : BitVec 8) (rm : RegNum)
  /-- LDRB, register offset, pre-indexed, a word with `iw[27:25] = 001` (30_encoding.md R87, R91). -/
  | ldrbAlias001Pre (cond : Cond) (u ignored21 : Bool) (rn rd : RegNum) (ignored11to4 : BitVec 8) (rm : RegNum)
  /-- STR, register offset, pre-indexed, a word with `iw[27:25] = 001` (30_encoding.md R87, R91). -/
  | strAlias001Pre (cond : Cond) (u ignored21 : Bool) (rn rd : RegNum) (ignored11to4 : BitVec 8) (rm : RegNum)
  /-- STRB, register offset, pre-indexed, a word with `iw[27:25] = 001` (30_encoding.md R87, R91). -/
  | strbAlias001Pre (cond : Cond) (u ignored21 : Bool) (rn rd : RegNum) (ignored11to4 : BitVec 8) (rm : RegNum)
  /-- LDR, register offset, post-indexed, a word with `iw[27:25] = 001` (30_encoding.md R87, R91). -/
  | ldrAlias001Post (cond : Cond) (u ignored21 : Bool) (rn rd : RegNum) (ignored11to4 : BitVec 8) (rm : RegNum)
  /-- LDRB, register offset, post-indexed, a word with `iw[27:25] = 001` (30_encoding.md R87, R91). -/
  | ldrbAlias001Post (cond : Cond) (u ignored21 : Bool) (rn rd : RegNum) (ignored11to4 : BitVec 8) (rm : RegNum)
  /-- STR, register offset, post-indexed, a word with `iw[27:25] = 001` (30_encoding.md R87, R91). -/
  | strAlias001Post (cond : Cond) (u ignored21 : Bool) (rn rd : RegNum) (ignored11to4 : BitVec 8) (rm : RegNum)
  /-- STRB, register offset, post-indexed, a word with `iw[27:25] = 001` (30_encoding.md R87, R91). -/
  | strbAlias001Post (cond : Cond) (u ignored21 : Bool) (rn rd : RegNum) (ignored11to4 : BitVec 8) (rm : RegNum)
  /-- B, branch (30_encoding.md R85, R92). -/
  | b (cond : Cond) (ignored25 : Bool) (imm24 : BitVec 24)
  /-- BL, branch with link (30_encoding.md R85, R92). -/
  | bl (cond : Cond) (ignored25 : Bool) (imm24 : BitVec 24)
  /-- The illegal class, `iw[27:26] = 11` (30_encoding.md R94). -/
  | illegal (cond : Cond) (ignored25to0 : BitVec 26)
  deriving DecidableEq, Repr

/-- An instruction seen by its format (30_encoding.md R82, R83, R85 to R87, R94): what encoding and
decoding work on. `aliased` is true for the words of R87 with `iw[27:25] = 001`. -/
inductive Form where
  | dpRsi (op : DpOp) (cond : Cond) (sBit : Bool) (rn rd : RegNum) (shamt5 : Nat) (shift : ShiftType) (rm : RegNum)
  | dpRsr (op : DpOp) (cond : Cond) (sBit : Bool) (rn rd rs : RegNum) (ignored7 : Bool) (shift : ShiftType) (rm : RegNum)
  | lsImm (op : LsOp) (pre : Bool) (cond : Cond) (u ignored21 : Bool) (rn rd : RegNum) (imm12 : Nat)
  | lsReg (op : LsOp) (aliased pre : Bool) (cond : Cond) (u ignored21 : Bool) (rn rd : RegNum) (ignored11to4 : BitVec 8) (rm : RegNum)
  | br (link : Bool) (cond : Cond) (ignored25 : Bool) (imm24 : BitVec 24)
  | none (cond : Cond) (ignored25to0 : BitVec 26)
  deriving DecidableEq, Repr

/-- A word of format DP_IMM (30_encoding.md R84). No word reaches this format under the normative
decode, so it is no constructor of `Instr`; it is run only in the configuration
`DECODE_001 = DataProcImm` (90_conflicts.md C1). -/
structure DpImm where
  cond : Cond
  op : DpOp
  sBit : Bool
  rn : RegNum
  rd : RegNum
  rot : BitVec 4
  imm8 : BitVec 8
  deriving DecidableEq, Repr

/-- A row of spec/opcode_table.json (30_encoding.md R93): a word belongs to the row when
`word &&& mask = pattern`. -/
structure OpcodeRow where
  mnemonic : String
  format : String
  pattern : Word
  mask : Word
  deriving DecidableEq, Repr

end Sys2Proof
end

