-- ==== Sys2Proof/WellFormed.lean ====
section
/-! DEFINITION. Which terms of `Instr` an instruction word can hold: the shift amount of format
DP_RSI has five bits and the immediate offset of format LS_IMM twelve (30_encoding.md R90). Every
other field's type has exactly the values of its bits, so the other constructors are well formed
whatever their fields. -/

namespace Sys2Proof

/-- A shift amount that five bits can hold (30_encoding.md R90). -/
def shamtFits (shamt5 : Nat) : Bool := decide (shamt5 < 32)

/-- A load/store offset that twelve bits can hold (30_encoding.md R90). -/
def offsetFits (imm12 : Nat) : Bool := decide (imm12 < 4096)

/-- The instruction's numbers fit the fields of its format. -/
def Instr.wellFormed (i : Instr) : Bool :=
  match i with
  | .andRsi _ _ _ _ n _ _ => shamtFits n
  | .andRsr _ _ _ _ _ _ _ _ => true
  | .eorRsi _ _ _ _ n _ _ => shamtFits n
  | .eorRsr _ _ _ _ _ _ _ _ => true
  | .subRsi _ _ _ _ n _ _ => shamtFits n
  | .subRsr _ _ _ _ _ _ _ _ => true
  | .rsbRsi _ _ _ _ n _ _ => shamtFits n
  | .rsbRsr _ _ _ _ _ _ _ _ => true
  | .addRsi _ _ _ _ n _ _ => shamtFits n
  | .addRsr _ _ _ _ _ _ _ _ => true
  | .adcRsi _ _ _ _ n _ _ => shamtFits n
  | .adcRsr _ _ _ _ _ _ _ _ => true
  | .sbcRsi _ _ _ _ n _ _ => shamtFits n
  | .sbcRsr _ _ _ _ _ _ _ _ => true
  | .rscRsi _ _ _ _ n _ _ => shamtFits n
  | .rscRsr _ _ _ _ _ _ _ _ => true
  | .tstRsi _ _ _ _ n _ _ => shamtFits n
  | .tstRsr _ _ _ _ _ _ _ _ => true
  | .teqRsi _ _ _ _ n _ _ => shamtFits n
  | .teqRsr _ _ _ _ _ _ _ _ => true
  | .cmpRsi _ _ _ _ n _ _ => shamtFits n
  | .cmpRsr _ _ _ _ _ _ _ _ => true
  | .cmnRsi _ _ _ _ n _ _ => shamtFits n
  | .cmnRsr _ _ _ _ _ _ _ _ => true
  | .orrRsi _ _ _ _ n _ _ => shamtFits n
  | .orrRsr _ _ _ _ _ _ _ _ => true
  | .movRsi _ _ _ _ n _ _ => shamtFits n
  | .movRsr _ _ _ _ _ _ _ _ => true
  | .bicRsi _ _ _ _ n _ _ => shamtFits n
  | .bicRsr _ _ _ _ _ _ _ _ => true
  | .mvnRsi _ _ _ _ n _ _ => shamtFits n
  | .mvnRsr _ _ _ _ _ _ _ _ => true
  | .ldrImmPre _ _ _ _ _ n => offsetFits n
  | .ldrbImmPre _ _ _ _ _ n => offsetFits n
  | .strImmPre _ _ _ _ _ n => offsetFits n
  | .strbImmPre _ _ _ _ _ n => offsetFits n
  | .ldrImmPost _ _ _ _ _ n => offsetFits n
  | .ldrbImmPost _ _ _ _ _ n => offsetFits n
  | .strImmPost _ _ _ _ _ n => offsetFits n
  | .strbImmPost _ _ _ _ _ n => offsetFits n
  | .ldrRegPre _ _ _ _ _ _ _ => true
  | .ldrbRegPre _ _ _ _ _ _ _ => true
  | .strRegPre _ _ _ _ _ _ _ => true
  | .strbRegPre _ _ _ _ _ _ _ => true
  | .ldrRegPost _ _ _ _ _ _ _ => true
  | .ldrbRegPost _ _ _ _ _ _ _ => true
  | .strRegPost _ _ _ _ _ _ _ => true
  | .strbRegPost _ _ _ _ _ _ _ => true
  | .ldrAlias001Pre _ _ _ _ _ _ _ => true
  | .ldrbAlias001Pre _ _ _ _ _ _ _ => true
  | .strAlias001Pre _ _ _ _ _ _ _ => true
  | .strbAlias001Pre _ _ _ _ _ _ _ => true
  | .ldrAlias001Post _ _ _ _ _ _ _ => true
  | .ldrbAlias001Post _ _ _ _ _ _ _ => true
  | .strAlias001Post _ _ _ _ _ _ _ => true
  | .strbAlias001Post _ _ _ _ _ _ _ => true
  | .b _ _ _ => true
  | .bl _ _ _ => true
  | .illegal _ _ => true

/-- `i` is an instruction that some word encodes. -/
abbrev WellFormed (i : Instr) : Prop := i.wellFormed = true

end Sys2Proof
end

