-- ==== Sys2Proof/Decode.lean ====
section
/-! DEFINITION. The decoder, total on all 2^32 words (40_decode_condition.md R103, 30_encoding.md
R80 to R94), the encoder written from the same field tables, and the opcode table itself. -/

namespace Sys2Proof

/-! ### Field values -/

/-- The condition with encoding `b` (40_decode_condition.md R104). -/
def Cond.ofBits (b : BitVec 4) : Cond :=
  match b.getLsbD 3, b.getLsbD 2, b.getLsbD 1, b.getLsbD 0 with
  | false, false, false, false => .eq
  | false, false, false, true => .ne
  | false, false, true, false => .cs
  | false, false, true, true => .cc
  | false, true, false, false => .mi
  | false, true, false, true => .pl
  | false, true, true, false => .vs
  | false, true, true, true => .vc
  | true, false, false, false => .hi
  | true, false, false, true => .ls
  | true, false, true, false => .ge
  | true, false, true, true => .lt
  | true, true, false, false => .gt
  | true, true, false, true => .le
  | true, true, true, false => .al
  | true, true, true, true => .nv

/-- The encoding of a condition (40_decode_condition.md R104). -/
def Cond.toBits (c : Cond) : BitVec 4 :=
  match c with
  | .eq => 0x0#4 | .ne => 0x1#4 | .cs => 0x2#4 | .cc => 0x3#4
  | .mi => 0x4#4 | .pl => 0x5#4 | .vs => 0x6#4 | .vc => 0x7#4
  | .hi => 0x8#4 | .ls => 0x9#4 | .ge => 0xA#4 | .lt => 0xB#4
  | .gt => 0xC#4 | .le => 0xD#4 | .al => 0xE#4 | .nv => 0xF#4

/-- The shift type with encoding `b` (41_barrel_shifter.md R132). -/
def ShiftType.ofBits (b : BitVec 2) : ShiftType :=
  match b.toFin with
  | 0 => .lsl | 1 => .lsr | 2 => .asr | 3 => .ror

/-- The encoding of a shift type (41_barrel_shifter.md R132). -/
def ShiftType.toBits (t : ShiftType) : BitVec 2 :=
  match t with
  | .lsl => 0b00#2 | .lsr => 0b01#2 | .asr => 0b10#2 | .ror => 0b11#2

/-- The data-processing operation with encoding `b` (30_encoding.md R89). -/
def DpOp.ofBits (b : BitVec 4) : DpOp :=
  match b.getLsbD 3, b.getLsbD 2, b.getLsbD 1, b.getLsbD 0 with
  | false, false, false, false => .and
  | false, false, false, true => .eor
  | false, false, true, false => .sub
  | false, false, true, true => .rsb
  | false, true, false, false => .add
  | false, true, false, true => .adc
  | false, true, true, false => .sbc
  | false, true, true, true => .rsc
  | true, false, false, false => .tst
  | true, false, false, true => .teq
  | true, false, true, false => .cmp
  | true, false, true, true => .cmn
  | true, true, false, false => .orr
  | true, true, false, true => .mov
  | true, true, true, false => .bic
  | true, true, true, true => .mvn

/-- The encoding of a data-processing operation (30_encoding.md R89). -/
def DpOp.toBits (op : DpOp) : BitVec 4 :=
  match op with
  | .and => 0x0#4 | .eor => 0x1#4 | .sub => 0x2#4 | .rsb => 0x3#4
  | .add => 0x4#4 | .adc => 0x5#4 | .sbc => 0x6#4 | .rsc => 0x7#4
  | .tst => 0x8#4 | .teq => 0x9#4 | .cmp => 0xA#4 | .cmn => 0xB#4
  | .orr => 0xC#4 | .mov => 0xD#4 | .bic => 0xE#4 | .mvn => 0xF#4

/-- The load/store instruction with bits `L` and `B` (30_encoding.md R91). -/
def LsOp.ofBits (l b : Bool) : LsOp :=
  match l, b with
  | false, false => .str
  | false, true => .strb
  | true, false => .ldr
  | true, true => .ldrb

/-- The bit `L`: a load (30_encoding.md R91). -/
def LsOp.lBit (op : LsOp) : Bool :=
  match op with
  | .ldr | .ldrb => true
  | .str | .strb => false

/-- The bit `B`: a byte access (30_encoding.md R91). -/
def LsOp.bBit (op : LsOp) : Bool :=
  match op with
  | .ldrb | .strb => true
  | .ldr | .str => false

/-- The four bits of `w` from `lo` up, as a register number. -/
def regField (w : Word) (lo : Nat) : RegNum := (w.extractLsb' lo 4).toFin

/-- A register number as a four-bit field. -/
def regBits (r : RegNum) : BitVec 4 := BitVec.ofFin r

/-- The condition of a word, `iw[31:28]` (30_encoding.md R80). -/
def condField (w : Word) : Cond := Cond.ofBits (w.extractLsb' 28 4)

/-! ### Formats -/

/-- `Family(iw)` by `iw[27:25]` (40_decode_condition.md R103, 30_encoding.md R81). -/
def family (w : Word) : Family :=
  match w.getLsbD 27, w.getLsbD 26, w.getLsbD 25 with
  | false, false, false => .dataProc
  | false, false, true => .loadStore
  | false, true, _ => .loadStore
  | true, false, _ => .branch
  | true, true, _ => .illegal

/-- The fields of a data-processing word, of format DP_RSI when `iw[4] = 0` and of DP_RSR when
`iw[4] = 1` (30_encoding.md R82, R83). -/
def decodeDataProcessing (w : Word) : Form :=
  if w.getLsbD 4 then
    .dpRsr (DpOp.ofBits (w.extractLsb' 21 4)) (condField w) (w.getLsbD 20) (regField w 16) (regField w 12)
      (regField w 8) (w.getLsbD 7) (ShiftType.ofBits (w.extractLsb' 5 2)) (regField w 0)
  else
    .dpRsi (DpOp.ofBits (w.extractLsb' 21 4)) (condField w) (w.getLsbD 20) (regField w 16) (regField w 12)
      (w.extractLsb' 7 5).toNat (ShiftType.ofBits (w.extractLsb' 5 2)) (regField w 0)

/-- The fields of a load/store word, of format LS_IMM when `I = iw[25] = 0` and of LS_REG when
`I = 1` (30_encoding.md R86, R87); in the latter `iw[26]` tells `011` from `001`. -/
def decodeLoadStore (w : Word) : Form :=
  if w.getLsbD 25 then
    .lsReg (LsOp.ofBits (w.getLsbD 20) (w.getLsbD 22)) (!w.getLsbD 26) (w.getLsbD 24) (condField w)
      (w.getLsbD 23) (w.getLsbD 21) (regField w 16) (regField w 12) (w.extractLsb' 4 8) (regField w 0)
  else
    .lsImm (LsOp.ofBits (w.getLsbD 20) (w.getLsbD 22)) (w.getLsbD 24) (condField w)
      (w.getLsbD 23) (w.getLsbD 21) (regField w 16) (regField w 12) (w.extractLsb' 0 12).toNat

/-- The format and fields of a word (30_encoding.md R81). -/
def Form.decode (w : Word) : Form :=
  match family w with
  | .dataProc => decodeDataProcessing w
  | .loadStore => decodeLoadStore w
  | .branch => .br (w.getLsbD 24) (condField w) (w.getLsbD 25) (w.extractLsb' 0 24)
  | .illegal => .none (condField w) (w.extractLsb' 0 26)

/-- The word with given format and fields, each field in the place its table gives it
(30_encoding.md R82, R83, R85 to R87, R94). -/
def Form.encode (f : Form) : Word :=
  match f with
  | .dpRsi op c s rn rd n t rm =>
    c.toBits ++ 0b000#3 ++ op.toBits ++ BitVec.ofBool s ++ regBits rn ++ regBits rd ++ BitVec.ofNat 5 n ++
      t.toBits ++ 0b0#1 ++ regBits rm
  | .dpRsr op c s rn rd rs g t rm =>
    c.toBits ++ 0b000#3 ++ op.toBits ++ BitVec.ofBool s ++ regBits rn ++ regBits rd ++ regBits rs ++
      BitVec.ofBool g ++ t.toBits ++ 0b1#1 ++ regBits rm
  | .lsImm op p c u g rn rd n =>
    c.toBits ++ 0b010#3 ++ BitVec.ofBool p ++ BitVec.ofBool u ++ BitVec.ofBool op.bBit ++ BitVec.ofBool g ++
      BitVec.ofBool op.lBit ++ regBits rn ++ regBits rd ++ BitVec.ofNat 12 n
  | .lsReg op a p c u g rn rd h rm =>
    c.toBits ++ (if a then 0b001#3 else 0b011#3) ++ BitVec.ofBool p ++ BitVec.ofBool u ++
      BitVec.ofBool op.bBit ++ BitVec.ofBool g ++ BitVec.ofBool op.lBit ++ regBits rn ++ regBits rd ++ h ++
      regBits rm
  | .br l c g i => c.toBits ++ 0b10#2 ++ BitVec.ofBool g ++ BitVec.ofBool l ++ i
  | .none c g => c.toBits ++ 0b11#2 ++ g

/-! ### Instructions -/

/-- The format and fields of an instruction (30_encoding.md R82 to R87, R89, R91, R92). -/
def Instr.toForm (i : Instr) : Form :=
  match i with
  | .andRsi c s rn rd n t rm => .dpRsi .and c s rn rd n t rm
  | .andRsr c s rn rd rs g t rm => .dpRsr .and c s rn rd rs g t rm
  | .eorRsi c s rn rd n t rm => .dpRsi .eor c s rn rd n t rm
  | .eorRsr c s rn rd rs g t rm => .dpRsr .eor c s rn rd rs g t rm
  | .subRsi c s rn rd n t rm => .dpRsi .sub c s rn rd n t rm
  | .subRsr c s rn rd rs g t rm => .dpRsr .sub c s rn rd rs g t rm
  | .rsbRsi c s rn rd n t rm => .dpRsi .rsb c s rn rd n t rm
  | .rsbRsr c s rn rd rs g t rm => .dpRsr .rsb c s rn rd rs g t rm
  | .addRsi c s rn rd n t rm => .dpRsi .add c s rn rd n t rm
  | .addRsr c s rn rd rs g t rm => .dpRsr .add c s rn rd rs g t rm
  | .adcRsi c s rn rd n t rm => .dpRsi .adc c s rn rd n t rm
  | .adcRsr c s rn rd rs g t rm => .dpRsr .adc c s rn rd rs g t rm
  | .sbcRsi c s rn rd n t rm => .dpRsi .sbc c s rn rd n t rm
  | .sbcRsr c s rn rd rs g t rm => .dpRsr .sbc c s rn rd rs g t rm
  | .rscRsi c s rn rd n t rm => .dpRsi .rsc c s rn rd n t rm
  | .rscRsr c s rn rd rs g t rm => .dpRsr .rsc c s rn rd rs g t rm
  | .tstRsi c s rn rd n t rm => .dpRsi .tst c s rn rd n t rm
  | .tstRsr c s rn rd rs g t rm => .dpRsr .tst c s rn rd rs g t rm
  | .teqRsi c s rn rd n t rm => .dpRsi .teq c s rn rd n t rm
  | .teqRsr c s rn rd rs g t rm => .dpRsr .teq c s rn rd rs g t rm
  | .cmpRsi c s rn rd n t rm => .dpRsi .cmp c s rn rd n t rm
  | .cmpRsr c s rn rd rs g t rm => .dpRsr .cmp c s rn rd rs g t rm
  | .cmnRsi c s rn rd n t rm => .dpRsi .cmn c s rn rd n t rm
  | .cmnRsr c s rn rd rs g t rm => .dpRsr .cmn c s rn rd rs g t rm
  | .orrRsi c s rn rd n t rm => .dpRsi .orr c s rn rd n t rm
  | .orrRsr c s rn rd rs g t rm => .dpRsr .orr c s rn rd rs g t rm
  | .movRsi c s rn rd n t rm => .dpRsi .mov c s rn rd n t rm
  | .movRsr c s rn rd rs g t rm => .dpRsr .mov c s rn rd rs g t rm
  | .bicRsi c s rn rd n t rm => .dpRsi .bic c s rn rd n t rm
  | .bicRsr c s rn rd rs g t rm => .dpRsr .bic c s rn rd rs g t rm
  | .mvnRsi c s rn rd n t rm => .dpRsi .mvn c s rn rd n t rm
  | .mvnRsr c s rn rd rs g t rm => .dpRsr .mvn c s rn rd rs g t rm
  | .ldrImmPre c u g rn rd n => .lsImm .ldr true c u g rn rd n
  | .ldrbImmPre c u g rn rd n => .lsImm .ldrb true c u g rn rd n
  | .strImmPre c u g rn rd n => .lsImm .str true c u g rn rd n
  | .strbImmPre c u g rn rd n => .lsImm .strb true c u g rn rd n
  | .ldrImmPost c u g rn rd n => .lsImm .ldr false c u g rn rd n
  | .ldrbImmPost c u g rn rd n => .lsImm .ldrb false c u g rn rd n
  | .strImmPost c u g rn rd n => .lsImm .str false c u g rn rd n
  | .strbImmPost c u g rn rd n => .lsImm .strb false c u g rn rd n
  | .ldrRegPre c u g rn rd h rm => .lsReg .ldr false true c u g rn rd h rm
  | .ldrbRegPre c u g rn rd h rm => .lsReg .ldrb false true c u g rn rd h rm
  | .strRegPre c u g rn rd h rm => .lsReg .str false true c u g rn rd h rm
  | .strbRegPre c u g rn rd h rm => .lsReg .strb false true c u g rn rd h rm
  | .ldrRegPost c u g rn rd h rm => .lsReg .ldr false false c u g rn rd h rm
  | .ldrbRegPost c u g rn rd h rm => .lsReg .ldrb false false c u g rn rd h rm
  | .strRegPost c u g rn rd h rm => .lsReg .str false false c u g rn rd h rm
  | .strbRegPost c u g rn rd h rm => .lsReg .strb false false c u g rn rd h rm
  | .ldrAlias001Pre c u g rn rd h rm => .lsReg .ldr true true c u g rn rd h rm
  | .ldrbAlias001Pre c u g rn rd h rm => .lsReg .ldrb true true c u g rn rd h rm
  | .strAlias001Pre c u g rn rd h rm => .lsReg .str true true c u g rn rd h rm
  | .strbAlias001Pre c u g rn rd h rm => .lsReg .strb true true c u g rn rd h rm
  | .ldrAlias001Post c u g rn rd h rm => .lsReg .ldr true false c u g rn rd h rm
  | .ldrbAlias001Post c u g rn rd h rm => .lsReg .ldrb true false c u g rn rd h rm
  | .strAlias001Post c u g rn rd h rm => .lsReg .str true false c u g rn rd h rm
  | .strbAlias001Post c u g rn rd h rm => .lsReg .strb true false c u g rn rd h rm
  | .b c g i => .br false c g i
  | .bl c g i => .br true c g i
  | .illegal c g => .none c g

/-- The DP_RSI instruction of an operation (30_encoding.md R82, R89). -/
def Instr.ofDpRsi (op : DpOp) (cond : Cond) (sBit : Bool) (rn rd : RegNum) (shamt5 : Nat) (shift : ShiftType) (rm : RegNum) : Instr :=
  match op with
  | .and => .andRsi cond sBit rn rd shamt5 shift rm
  | .eor => .eorRsi cond sBit rn rd shamt5 shift rm
  | .sub => .subRsi cond sBit rn rd shamt5 shift rm
  | .rsb => .rsbRsi cond sBit rn rd shamt5 shift rm
  | .add => .addRsi cond sBit rn rd shamt5 shift rm
  | .adc => .adcRsi cond sBit rn rd shamt5 shift rm
  | .sbc => .sbcRsi cond sBit rn rd shamt5 shift rm
  | .rsc => .rscRsi cond sBit rn rd shamt5 shift rm
  | .tst => .tstRsi cond sBit rn rd shamt5 shift rm
  | .teq => .teqRsi cond sBit rn rd shamt5 shift rm
  | .cmp => .cmpRsi cond sBit rn rd shamt5 shift rm
  | .cmn => .cmnRsi cond sBit rn rd shamt5 shift rm
  | .orr => .orrRsi cond sBit rn rd shamt5 shift rm
  | .mov => .movRsi cond sBit rn rd shamt5 shift rm
  | .bic => .bicRsi cond sBit rn rd shamt5 shift rm
  | .mvn => .mvnRsi cond sBit rn rd shamt5 shift rm

/-- The DP_RSR instruction of an operation (30_encoding.md R83, R89). -/
def Instr.ofDpRsr (op : DpOp) (cond : Cond) (sBit : Bool) (rn rd rs : RegNum) (ignored7 : Bool) (shift : ShiftType) (rm : RegNum) : Instr :=
  match op with
  | .and => .andRsr cond sBit rn rd rs ignored7 shift rm
  | .eor => .eorRsr cond sBit rn rd rs ignored7 shift rm
  | .sub => .subRsr cond sBit rn rd rs ignored7 shift rm
  | .rsb => .rsbRsr cond sBit rn rd rs ignored7 shift rm
  | .add => .addRsr cond sBit rn rd rs ignored7 shift rm
  | .adc => .adcRsr cond sBit rn rd rs ignored7 shift rm
  | .sbc => .sbcRsr cond sBit rn rd rs ignored7 shift rm
  | .rsc => .rscRsr cond sBit rn rd rs ignored7 shift rm
  | .tst => .tstRsr cond sBit rn rd rs ignored7 shift rm
  | .teq => .teqRsr cond sBit rn rd rs ignored7 shift rm
  | .cmp => .cmpRsr cond sBit rn rd rs ignored7 shift rm
  | .cmn => .cmnRsr cond sBit rn rd rs ignored7 shift rm
  | .orr => .orrRsr cond sBit rn rd rs ignored7 shift rm
  | .mov => .movRsr cond sBit rn rd rs ignored7 shift rm
  | .bic => .bicRsr cond sBit rn rd rs ignored7 shift rm
  | .mvn => .mvnRsr cond sBit rn rd rs ignored7 shift rm

/-- The LS_IMM instruction of an operation and an index order (30_encoding.md R86, R91). -/
def Instr.ofLsImm (op : LsOp) (pre : Bool) (cond : Cond) (u ignored21 : Bool) (rn rd : RegNum) (imm12 : Nat) : Instr :=
  match op, pre with
  | .ldr, true => .ldrImmPre cond u ignored21 rn rd imm12
  | .ldrb, true => .ldrbImmPre cond u ignored21 rn rd imm12
  | .str, true => .strImmPre cond u ignored21 rn rd imm12
  | .strb, true => .strbImmPre cond u ignored21 rn rd imm12
  | .ldr, false => .ldrImmPost cond u ignored21 rn rd imm12
  | .ldrb, false => .ldrbImmPost cond u ignored21 rn rd imm12
  | .str, false => .strImmPost cond u ignored21 rn rd imm12
  | .strb, false => .strbImmPost cond u ignored21 rn rd imm12

/-- The LS_REG instruction of an operation, an index order and a family pattern (30_encoding.md
R87, R91). -/
def Instr.ofLsReg (op : LsOp) (aliased pre : Bool) (cond : Cond) (u ignored21 : Bool) (rn rd : RegNum) (ignored11to4 : BitVec 8) (rm : RegNum) : Instr :=
  match op, aliased, pre with
  | .ldr, false, true => .ldrRegPre cond u ignored21 rn rd ignored11to4 rm
  | .ldrb, false, true => .ldrbRegPre cond u ignored21 rn rd ignored11to4 rm
  | .str, false, true => .strRegPre cond u ignored21 rn rd ignored11to4 rm
  | .strb, false, true => .strbRegPre cond u ignored21 rn rd ignored11to4 rm
  | .ldr, false, false => .ldrRegPost cond u ignored21 rn rd ignored11to4 rm
  | .ldrb, false, false => .ldrbRegPost cond u ignored21 rn rd ignored11to4 rm
  | .str, false, false => .strRegPost cond u ignored21 rn rd ignored11to4 rm
  | .strb, false, false => .strbRegPost cond u ignored21 rn rd ignored11to4 rm
  | .ldr, true, true => .ldrAlias001Pre cond u ignored21 rn rd ignored11to4 rm
  | .ldrb, true, true => .ldrbAlias001Pre cond u ignored21 rn rd ignored11to4 rm
  | .str, true, true => .strAlias001Pre cond u ignored21 rn rd ignored11to4 rm
  | .strb, true, true => .strbAlias001Pre cond u ignored21 rn rd ignored11to4 rm
  | .ldr, true, false => .ldrAlias001Post cond u ignored21 rn rd ignored11to4 rm
  | .ldrb, true, false => .ldrbAlias001Post cond u ignored21 rn rd ignored11to4 rm
  | .str, true, false => .strAlias001Post cond u ignored21 rn rd ignored11to4 rm
  | .strb, true, false => .strbAlias001Post cond u ignored21 rn rd ignored11to4 rm

/-- The instruction of a format and fields. -/
def Instr.ofForm (f : Form) : Instr :=
  match f with
  | .dpRsi op c s rn rd n t rm => Instr.ofDpRsi op c s rn rd n t rm
  | .dpRsr op c s rn rd rs g t rm => Instr.ofDpRsr op c s rn rd rs g t rm
  | .lsImm op p c u g rn rd n => Instr.ofLsImm op p c u g rn rd n
  | .lsReg op a p c u g rn rd h rm => Instr.ofLsReg op a p c u g rn rd h rm
  | .br false c g i => .b c g i
  | .br true c g i => .bl c g i
  | .none c g => .illegal c g


/-- The instruction a word is: every word is exactly one (30_encoding.md R93). -/
def decode (w : Word) : Instr := Instr.ofForm (Form.decode w)

/-- The word of a well-formed instruction. -/
def encode (i : Instr) : Word := i.toForm.encode

/-- The condition field of an instruction (30_encoding.md R80, 40_decode_condition.md R106). -/
def Instr.cond (i : Instr) : Cond :=
  match i.toForm with
  | .dpRsi _ c _ _ _ _ _ _ => c
  | .dpRsr _ c _ _ _ _ _ _ _ => c
  | .lsImm _ _ c _ _ _ _ _ => c
  | .lsReg _ _ _ c _ _ _ _ _ _ => c
  | .br _ c _ _ => c
  | .none c _ => c

/-- The instruction the decoder reads from the `nbits` low bits of `w`. A word arrives at the
instruction port as one 32-bit value and has no byte order (20_memory.md R54), so the opcode table's
numbering of its bits is the word's own. -/
def decodeTableWord (nbits w : Nat) : Option Instr :=
  if nbits ≤ 32 ∧ w < 2 ^ nbits then some (decode (BitVec.ofNat 32 w)) else none

/-- Why a host's instruction bytes give no word. -/
inductive DecodeError where
  | fewerThanFourBytes (n : Nat)
  deriving DecidableEq, Repr

/-- A word read back from the memory image by a host that keeps program text there: four bytes,
little-endian (20_memory.md R54, decision D22), and the bytes after it. -/
def decodeBytes (bytes : List Byte) : Except DecodeError (Instr × List Byte) :=
  match bytes with
  | b0 :: b1 :: b2 :: b3 :: rest => .ok (decode (b3 ++ b2 ++ b1 ++ b0), rest)
  | short => .error (.fewerThanFourBytes short.length)

/-! ### Format DP_IMM -/

/-- The bits `iw[27:25] = 001` that `DECODE_001` classifies (30_encoding.md R81, R84). -/
def isWord001 (w : Word) : Bool := !w.getLsbD 27 && !w.getLsbD 26 && w.getLsbD 25

/-- The fields of a word of format DP_IMM (30_encoding.md R84). -/
def decodeDpImm (w : Word) : DpImm where
  cond := condField w
  op := DpOp.ofBits (w.extractLsb' 21 4)
  sBit := w.getLsbD 20
  rn := regField w 16
  rd := regField w 12
  rot := w.extractLsb' 8 4
  imm8 := w.extractLsb' 0 8

/-- The word of format DP_IMM with given fields (30_encoding.md R84). -/
def encodeDpImm (d : DpImm) : Word :=
  d.cond.toBits ++ 0b001#3 ++ d.op.toBits ++ BitVec.ofBool d.sBit ++ regBits d.rn ++ regBits d.rd ++ d.rot ++ d.imm8

/-! ### The opcode table -/

/-- The data-processing rows (30_encoding.md R93). -/
def dataProcessingRows : List OpcodeRow :=
  [⟨"AND", "DP_RSI", 0x00000000#32, 0x0FE00010#32⟩,
   ⟨"AND", "DP_RSR", 0x00000010#32, 0x0FE00010#32⟩,
   ⟨"EOR", "DP_RSI", 0x00200000#32, 0x0FE00010#32⟩,
   ⟨"EOR", "DP_RSR", 0x00200010#32, 0x0FE00010#32⟩,
   ⟨"SUB", "DP_RSI", 0x00400000#32, 0x0FE00010#32⟩,
   ⟨"SUB", "DP_RSR", 0x00400010#32, 0x0FE00010#32⟩,
   ⟨"RSB", "DP_RSI", 0x00600000#32, 0x0FE00010#32⟩,
   ⟨"RSB", "DP_RSR", 0x00600010#32, 0x0FE00010#32⟩] ++
  [⟨"ADD", "DP_RSI", 0x00800000#32, 0x0FE00010#32⟩,
   ⟨"ADD", "DP_RSR", 0x00800010#32, 0x0FE00010#32⟩,
   ⟨"ADC", "DP_RSI", 0x00A00000#32, 0x0FE00010#32⟩,
   ⟨"ADC", "DP_RSR", 0x00A00010#32, 0x0FE00010#32⟩,
   ⟨"SBC", "DP_RSI", 0x00C00000#32, 0x0FE00010#32⟩,
   ⟨"SBC", "DP_RSR", 0x00C00010#32, 0x0FE00010#32⟩,
   ⟨"RSC", "DP_RSI", 0x00E00000#32, 0x0FE00010#32⟩,
   ⟨"RSC", "DP_RSR", 0x00E00010#32, 0x0FE00010#32⟩] ++
  [⟨"TST", "DP_RSI", 0x01000000#32, 0x0FE00010#32⟩,
   ⟨"TST", "DP_RSR", 0x01000010#32, 0x0FE00010#32⟩,
   ⟨"TEQ", "DP_RSI", 0x01200000#32, 0x0FE00010#32⟩,
   ⟨"TEQ", "DP_RSR", 0x01200010#32, 0x0FE00010#32⟩,
   ⟨"CMP", "DP_RSI", 0x01400000#32, 0x0FE00010#32⟩,
   ⟨"CMP", "DP_RSR", 0x01400010#32, 0x0FE00010#32⟩,
   ⟨"CMN", "DP_RSI", 0x01600000#32, 0x0FE00010#32⟩,
   ⟨"CMN", "DP_RSR", 0x01600010#32, 0x0FE00010#32⟩] ++
  [⟨"ORR", "DP_RSI", 0x01800000#32, 0x0FE00010#32⟩,
   ⟨"ORR", "DP_RSR", 0x01800010#32, 0x0FE00010#32⟩,
   ⟨"MOV", "DP_RSI", 0x01A00000#32, 0x0FE00010#32⟩,
   ⟨"MOV", "DP_RSR", 0x01A00010#32, 0x0FE00010#32⟩,
   ⟨"BIC", "DP_RSI", 0x01C00000#32, 0x0FE00010#32⟩,
   ⟨"BIC", "DP_RSR", 0x01C00010#32, 0x0FE00010#32⟩,
   ⟨"MVN", "DP_RSI", 0x01E00000#32, 0x0FE00010#32⟩,
   ⟨"MVN", "DP_RSR", 0x01E00010#32, 0x0FE00010#32⟩]

/-- The load/store rows with `iw[27:26] = 01` (30_encoding.md R93). -/
def loadStoreRows : List OpcodeRow :=
  [⟨"LDR", "LS_IMM.pre", 0x05100000#32, 0x0F500000#32⟩,
   ⟨"LDRB", "LS_IMM.pre", 0x05500000#32, 0x0F500000#32⟩,
   ⟨"STR", "LS_IMM.pre", 0x05000000#32, 0x0F500000#32⟩,
   ⟨"STRB", "LS_IMM.pre", 0x05400000#32, 0x0F500000#32⟩,
   ⟨"LDR", "LS_IMM.post", 0x04100000#32, 0x0F500000#32⟩,
   ⟨"LDRB", "LS_IMM.post", 0x04500000#32, 0x0F500000#32⟩,
   ⟨"STR", "LS_IMM.post", 0x04000000#32, 0x0F500000#32⟩,
   ⟨"STRB", "LS_IMM.post", 0x04400000#32, 0x0F500000#32⟩] ++
  [⟨"LDR", "LS_REG.pre", 0x07100000#32, 0x0F500000#32⟩,
   ⟨"LDRB", "LS_REG.pre", 0x07500000#32, 0x0F500000#32⟩,
   ⟨"STR", "LS_REG.pre", 0x07000000#32, 0x0F500000#32⟩,
   ⟨"STRB", "LS_REG.pre", 0x07400000#32, 0x0F500000#32⟩,
   ⟨"LDR", "LS_REG.post", 0x06100000#32, 0x0F500000#32⟩,
   ⟨"LDRB", "LS_REG.post", 0x06500000#32, 0x0F500000#32⟩,
   ⟨"STR", "LS_REG.post", 0x06000000#32, 0x0F500000#32⟩,
   ⟨"STRB", "LS_REG.post", 0x06400000#32, 0x0F500000#32⟩]

/-- The load/store rows with `iw[27:25] = 001` (30_encoding.md R93). -/
def aliasRows : List OpcodeRow :=
  [⟨"LDR.alias001", "LS_REG.pre", 0x03100000#32, 0x0F500000#32⟩,
   ⟨"LDRB.alias001", "LS_REG.pre", 0x03500000#32, 0x0F500000#32⟩,
   ⟨"STR.alias001", "LS_REG.pre", 0x03000000#32, 0x0F500000#32⟩,
   ⟨"STRB.alias001", "LS_REG.pre", 0x03400000#32, 0x0F500000#32⟩,
   ⟨"LDR.alias001", "LS_REG.post", 0x02100000#32, 0x0F500000#32⟩,
   ⟨"LDRB.alias001", "LS_REG.post", 0x02500000#32, 0x0F500000#32⟩,
   ⟨"STR.alias001", "LS_REG.post", 0x02000000#32, 0x0F500000#32⟩,
   ⟨"STRB.alias001", "LS_REG.post", 0x02400000#32, 0x0F500000#32⟩]

/-- The branch and illegal rows (30_encoding.md R93). -/
def otherRows : List OpcodeRow :=
  [⟨"B", "BR", 0x08000000#32, 0x0D000000#32⟩,
   ⟨"BL", "BR", 0x09000000#32, 0x0D000000#32⟩,
   ⟨"ILLEGAL", "NONE", 0x0C000000#32, 0x0C000000#32⟩]

/-- spec/opcode_table.json, row by row. -/
def opcodeTable : List OpcodeRow :=
  dataProcessingRows ++ loadStoreRows ++ aliasRows ++ otherRows

/-- The mnemonic and format of an instruction, as spec/opcode_table.json names its row. -/
def Instr.rowName (i : Instr) : String × String :=
  match i with
  | .andRsi _ _ _ _ _ _ _ => ("AND", "DP_RSI")
  | .andRsr _ _ _ _ _ _ _ _ => ("AND", "DP_RSR")
  | .eorRsi _ _ _ _ _ _ _ => ("EOR", "DP_RSI")
  | .eorRsr _ _ _ _ _ _ _ _ => ("EOR", "DP_RSR")
  | .subRsi _ _ _ _ _ _ _ => ("SUB", "DP_RSI")
  | .subRsr _ _ _ _ _ _ _ _ => ("SUB", "DP_RSR")
  | .rsbRsi _ _ _ _ _ _ _ => ("RSB", "DP_RSI")
  | .rsbRsr _ _ _ _ _ _ _ _ => ("RSB", "DP_RSR")
  | .addRsi _ _ _ _ _ _ _ => ("ADD", "DP_RSI")
  | .addRsr _ _ _ _ _ _ _ _ => ("ADD", "DP_RSR")
  | .adcRsi _ _ _ _ _ _ _ => ("ADC", "DP_RSI")
  | .adcRsr _ _ _ _ _ _ _ _ => ("ADC", "DP_RSR")
  | .sbcRsi _ _ _ _ _ _ _ => ("SBC", "DP_RSI")
  | .sbcRsr _ _ _ _ _ _ _ _ => ("SBC", "DP_RSR")
  | .rscRsi _ _ _ _ _ _ _ => ("RSC", "DP_RSI")
  | .rscRsr _ _ _ _ _ _ _ _ => ("RSC", "DP_RSR")
  | .tstRsi _ _ _ _ _ _ _ => ("TST", "DP_RSI")
  | .tstRsr _ _ _ _ _ _ _ _ => ("TST", "DP_RSR")
  | .teqRsi _ _ _ _ _ _ _ => ("TEQ", "DP_RSI")
  | .teqRsr _ _ _ _ _ _ _ _ => ("TEQ", "DP_RSR")
  | .cmpRsi _ _ _ _ _ _ _ => ("CMP", "DP_RSI")
  | .cmpRsr _ _ _ _ _ _ _ _ => ("CMP", "DP_RSR")
  | .cmnRsi _ _ _ _ _ _ _ => ("CMN", "DP_RSI")
  | .cmnRsr _ _ _ _ _ _ _ _ => ("CMN", "DP_RSR")
  | .orrRsi _ _ _ _ _ _ _ => ("ORR", "DP_RSI")
  | .orrRsr _ _ _ _ _ _ _ _ => ("ORR", "DP_RSR")
  | .movRsi _ _ _ _ _ _ _ => ("MOV", "DP_RSI")
  | .movRsr _ _ _ _ _ _ _ _ => ("MOV", "DP_RSR")
  | .bicRsi _ _ _ _ _ _ _ => ("BIC", "DP_RSI")
  | .bicRsr _ _ _ _ _ _ _ _ => ("BIC", "DP_RSR")
  | .mvnRsi _ _ _ _ _ _ _ => ("MVN", "DP_RSI")
  | .mvnRsr _ _ _ _ _ _ _ _ => ("MVN", "DP_RSR")
  | .ldrImmPre _ _ _ _ _ _ => ("LDR", "LS_IMM.pre")
  | .ldrbImmPre _ _ _ _ _ _ => ("LDRB", "LS_IMM.pre")
  | .strImmPre _ _ _ _ _ _ => ("STR", "LS_IMM.pre")
  | .strbImmPre _ _ _ _ _ _ => ("STRB", "LS_IMM.pre")
  | .ldrImmPost _ _ _ _ _ _ => ("LDR", "LS_IMM.post")
  | .ldrbImmPost _ _ _ _ _ _ => ("LDRB", "LS_IMM.post")
  | .strImmPost _ _ _ _ _ _ => ("STR", "LS_IMM.post")
  | .strbImmPost _ _ _ _ _ _ => ("STRB", "LS_IMM.post")
  | .ldrRegPre _ _ _ _ _ _ _ => ("LDR", "LS_REG.pre")
  | .ldrbRegPre _ _ _ _ _ _ _ => ("LDRB", "LS_REG.pre")
  | .strRegPre _ _ _ _ _ _ _ => ("STR", "LS_REG.pre")
  | .strbRegPre _ _ _ _ _ _ _ => ("STRB", "LS_REG.pre")
  | .ldrRegPost _ _ _ _ _ _ _ => ("LDR", "LS_REG.post")
  | .ldrbRegPost _ _ _ _ _ _ _ => ("LDRB", "LS_REG.post")
  | .strRegPost _ _ _ _ _ _ _ => ("STR", "LS_REG.post")
  | .strbRegPost _ _ _ _ _ _ _ => ("STRB", "LS_REG.post")
  | .ldrAlias001Pre _ _ _ _ _ _ _ => ("LDR.alias001", "LS_REG.pre")
  | .ldrbAlias001Pre _ _ _ _ _ _ _ => ("LDRB.alias001", "LS_REG.pre")
  | .strAlias001Pre _ _ _ _ _ _ _ => ("STR.alias001", "LS_REG.pre")
  | .strbAlias001Pre _ _ _ _ _ _ _ => ("STRB.alias001", "LS_REG.pre")
  | .ldrAlias001Post _ _ _ _ _ _ _ => ("LDR.alias001", "LS_REG.post")
  | .ldrbAlias001Post _ _ _ _ _ _ _ => ("LDRB.alias001", "LS_REG.post")
  | .strAlias001Post _ _ _ _ _ _ _ => ("STR.alias001", "LS_REG.post")
  | .strbAlias001Post _ _ _ _ _ _ _ => ("STRB.alias001", "LS_REG.post")
  | .b _ _ _ => ("B", "BR")
  | .bl _ _ _ => ("BL", "BR")
  | .illegal _ _ => ("ILLEGAL", "NONE")


/-- `w` belongs to the row (30_encoding.md R93: "(iw & mask) == match"). -/
def OpcodeRow.holds (r : OpcodeRow) (w : Word) : Bool := w &&& r.mask == r.pattern

end Sys2Proof
end

