-- ==== Sys2Proof/Config.lean ====
section
/-! DEFINITION. The parameters of 00_scope.md R6 that an instruction's meaning depends on, and the
free value behind one of them. -/

namespace Sys2Proof

/-- `DECODE_001` (00_scope.md R6, 92_eei_decisions.md D18): the family of a word with
`iw[27:25] = 001`. `loadStore` is the normative value; `dataProcImm` is the source's test
configuration (90_conflicts.md C1). -/
inductive Decode001 where
  | loadStore | dataProcImm
  deriving DecidableEq, Repr

/-- `SHIFT_GE32` (00_scope.md R6, 92_eei_decisions.md D9): what a shift by 32 to 255 gives.
`mathematical` is the normative value (41_barrel_shifter.md R138); `other` is any other result,
which nothing constrains. -/
inductive ShiftGe32 where
  | mathematical | other
  deriving DecidableEq, Repr

/-- The parameters (00_scope.md R6). -/
structure Params where
  decode001 : Decode001
  shiftGe32 : ShiftGe32
  /-- `ILLEGAL_BEFORE_COND` (92_eei_decisions.md D6); normative value false. -/
  illegalBeforeCond : Bool
  deriving DecidableEq, Repr

/-- DESIGN CHOICE (log entry 6). FREE VALUE: the result of a shift of a value by 32 to 255 when
`SHIFT_GE32` is not the mathematical shift. It has no body: nothing can be proved of it. -/
opaque Config.shiftOther : ShiftType → Word → Nat → Word

end Sys2Proof
end

