-- ==== Sys2Proof/Machine/Defaults.lean ====
section
/-! DEFINITION. The values the parameters and the registers have after `init` (00_scope.md R5, R6;
10_state.md R40). -/

namespace Sys2Proof.Machine

/-- The normative values of the parameters (00_scope.md R6). -/
def normativeParams : Params where
  decode001 := .loadStore
  shiftGe32 := .mathematical
  illegalBeforeCond := false

/-- The capacity `init` takes when asked for 0: 64 MiB (00_scope.md R5). -/
def defaultCapacity : Nat := 0x04000000

/-- The largest capacity the spec supports (00_scope.md R6, 92_eei_decisions.md D4). -/
def maxCapacity : Nat := 2 ^ 32

/-- The capacity of `init(size)` (10_state.md R40). -/
def initCapacity (size : Nat) : Nat := if size = 0 then defaultCapacity else size

/-- `SP` after `init`: `(CAP - 4) mod 2^32` (10_state.md R40). -/
def resetSp (cap : Nat) : Word := BitVec.ofNat 32 cap - 4#32

/-- The register file after `init` (10_state.md R40; the zeros of R0 to R12, LR and CPSR are the
spec's decision D2, log entry 1). -/
def resetFile (cap : Nat) : Vector Word 17 :=
  #v[0, 0, 0, 0, 0, 0, 0, 0, 0, 0, 0, 0, 0, resetSp cap, 0, 0, 0]

/-- `MEM_SIZE` after `init` (10_state.md R40, the spec's decision D3, log entry 2). -/
def resetMemSize (cap : Nat) : Nat := cap

end Sys2Proof.Machine
end

