-- ==== Sys2Proof/Machine/State.lean ====
section
/-! DEFINITION. The state of the block (10_state.md R20) and of its boundary (50_host_interface.md),
the reasons a step can stop, and the state after reset. -/

namespace Sys2Proof.Machine

/-- The spec's labels of the three causes of a failing instruction step (60_exceptions.md R260). The
hardware reports one bit and no cause; a failing step is a NEXT state of the model, from which the
engine goes on (R261, R267). -/
inductive Cause where
  | uninitialized | illegalInstruction | accessOutOfRange
  deriving DecidableEq, Repr

/-- The result of an instruction step (40_decode_condition.md R109): `ok = 1`, or `ok = 0` with the
label of its cause. -/
inductive StepResult where
  | succeeded
  | failed (cause : Cause)
  deriving DecidableEq, Repr

/-- A host transaction (50_host_interface.md R231). `allocOk` is `ALLOC_OK`, the free input that says
whether an allocation succeeds (92_eei_decisions.md D20). -/
inductive Transaction where
  | create
  | init (size : Nat) (allocOk : Bool)
  | writeMemory (addr : Nat) (data : List Byte) (allocOk : Bool)
  | readMemory (addr len : Nat)
  | setRegister (reg : Nat) (value : Word)
  | getRegister (reg : Nat)
  | setPC (value : Word)
  | getPC
  | executeInstruction (iw : Word)
  | executeInstructions (iws : List Word)
  | getInstructionCount
  | getMemorySize
  | destroy
  deriving DecidableEq, Repr

/-- What a completed transaction returns (50_host_interface.md R231). -/
inductive Reply where
  /-- `create`: a fresh engine. -/
  | created
  /-- `init`, `writeMemory`, `executeInstruction`: success or failure. -/
  | ok (success : Bool)
  /-- `readMemory`: the bytes, or none when it fails. -/
  | bytes (data : Option (List Byte))
  /-- `setRegister`, `setPC`: nothing. -/
  | done
  /-- `getRegister`, `getPC`. -/
  | word (value : Word)
  /-- `executeInstructions`: how many words succeeded before the first failure. -/
  | count (n : Nat)
  /-- `getInstructionCount`. -/
  | counter (value : BitVec 64)
  /-- `getMemorySize`. -/
  | size (n : Nat)
  deriving DecidableEq, Repr

/-- A batch in progress (50_host_interface.md R244): the words still to be executed and how many
have succeeded. -/
structure Batch where
  words : List Word
  count : Nat
  deriving DecidableEq, Repr

/-- The whole state: the components of 10_state.md R20, then the boundary and the parameters. -/
structure State where
  /-- The register file: R0 to R12, SP, LR, PC, CPSR (10_state.md R21). -/
  x : Vector Word 17
  /-- The shadow fields of R15, R13 and R14 (10_state.md R25). -/
  pcShadow : Word
  spShadow : Word
  lrShadow : Word
  /-- `MEM`: the bytes that are not 0, addresses strictly rising (10_state.md R38). -/
  mem : List Host.Cell
  /-- `MEM_SIZE`, the logical size. -/
  memSize : Nat
  /-- `CAP`, the capacity. -/
  cap : Nat
  /-- The execution counter (10_state.md R37). -/
  icount : BitVec 64
  /-- 0 until an `init` succeeds (10_state.md R39). -/
  initialized : Bool
  /-- The parameters of 00_scope.md R6; no step changes them. -/
  params : Params
  /-- The transactions the host has presented and the block has not begun, oldest first. -/
  requests : List Transaction
  /-- The batch in progress. -/
  batch : Option Batch
  /-- The result of the last instruction step. -/
  result : StepResult
  /-- What the last completed transaction returned; none while a batch runs. -/
  reply : Option Reply
  deriving DecidableEq, Repr

/-- Why the machine stops. No instruction raises a fault: a failing step goes on. -/
inductive Fault where
  /-- Raised by the transaction `destroy`, which ends the instance's life (50_host_interface.md
  R251). Safe: the model proves nothing of what follows. -/
  | destroyed
  deriving DecidableEq, Repr

/-- Why a step has no meaning. No instruction is refused. -/
inductive Refusal where
  /-- Raised by an arm of `exec` for an instruction with no meaning yet; no arm does. Safe. -/
  | notModelled (mnemonic : String)
  /-- Raised by `setRegister`, `getRegister`, `setPC`, `getPC`, `getInstructionCount` and
  `getMemorySize` while `initialized = 0`, where the spec gives them no meaning
  (50_host_interface.md R249, 92_eei_decisions.md D17). Safe. -/
  | beforeInit
  /-- Raised by `init` above 2^32 bytes (92_eei_decisions.md D4, 93_implementation_defined.md U17) and by
  a `writeMemory` whose allocation succeeds in growing the capacity above them, outside what the spec
  supports (00_scope.md R6, 91_not_in_source.md, growth above 2^32). Safe. -/
  | capacityUnsupported
  deriving DecidableEq, Repr

/-- What a step ends in. -/
abbrev Outcome := Host.Outcome State Fault Refusal

/-- The state after a successful `init` with resulting capacity `cap` (10_state.md R40), with the
given parameters and nothing at the boundary. -/
def State.afterInit (cap : Nat) (params : Params) : State where
  x := resetFile cap
  pcShadow := 0
  spShadow := resetSp cap
  lrShadow := 0
  mem := []
  memSize := resetMemSize cap
  cap := cap
  icount := 0
  initialized := true
  params := params
  requests := []
  batch := none
  result := .succeeded
  reply := none

/-- The machine right after reset: the only reset is `init` (70_reset_and_hazards.md R290), here asked
for the default capacity (log entry 3), with the normative parameters. -/
def State.reset : State := State.afterInit defaultCapacity normativeParams

end Sys2Proof.Machine
end

