-- ==== Sys2Proof/Machine/Ops.lean ====
section
/-! DEFINITION. The named operations over registers and memory, success and failure of a step, and
the condition that guards an instruction. -/

namespace Sys2Proof

/-- The place in the register file of the register a four-bit field names (10_state.md R23). -/
def RegNum.index (r : RegNum) : Fin 17 := r.castSucc

namespace Machine

/-! ### Registers -/

/-- `x[i]` (00_scope.md R8). A read of `x[15]` adds nothing (10_state.md R27). -/
def State.readReg (s : State) (i : Fin 17) : Word := s.x[i]

/-- `x[i] <- v` (00_scope.md R8): words 13, 14 and 15 are written together with their shadow fields
(10_state.md R25). -/
def State.writeReg (s : State) (i : Fin 17) (v : Word) : State :=
  { s with
    x := s.x.set i v
    spShadow := if i = 13 then v else s.spShadow
    lrShadow := if i = 14 then v else s.lrShadow
    pcShadow := if i = 15 then v else s.pcShadow }

/-- The program counter, `x[15]` (10_state.md R26). -/
def State.pc (s : State) : Word := s.readReg 15

/-- The link register, `x[14]` (10_state.md R21). -/
def State.lr (s : State) : Word := s.readReg 14

/-- The stack pointer, `x[13]` (10_state.md R21). -/
def State.sp (s : State) : Word := s.readReg 13

/-- The status register, `x[16]` (10_state.md R30). -/
def State.cpsr (s : State) : Word := s.readReg 16

/-- The flag N, CPSR bit 31 (00_scope.md R8). -/
def State.nFlag (s : State) : Bool := s.cpsr.getLsbD 31

/-- The flag Z, CPSR bit 30. -/
def State.zFlag (s : State) : Bool := s.cpsr.getLsbD 30

/-- The flag C, CPSR bit 29. -/
def State.cFlag (s : State) : Bool := s.cpsr.getLsbD 29

/-- The flag V, CPSR bit 28. -/
def State.vFlag (s : State) : Bool := s.cpsr.getLsbD 28

/-! ### Memory -/

/-- What an address the list does not name reads as: the zero of `init` and of growth
(20_memory.md R72). -/
def unlistedByte : Byte := 0#8

/-- The byte at an address. -/
def Memory.read (m : List Host.Cell) (a : Nat) : Byte :=
  match m with
  | [] => unlistedByte
  | (k, v) :: rest => if k = a then v else Memory.read rest a

/-- The memory with one byte written, in canonical form. -/
def Memory.write (m : List Host.Cell) (a : Nat) (b : Byte) : List Host.Cell :=
  match m with
  | [] => if b = unlistedByte then [] else [(a, b)]
  | (k, v) :: rest =>
    if a < k then (if b = unlistedByte then (k, v) :: rest else (a, b) :: (k, v) :: rest)
    else if a = k then (if b = unlistedByte then rest else (a, b) :: rest)
    else (k, v) :: Memory.write rest a b

/-- The memory with bytes written at consecutive addresses from `a`. -/
def Memory.writeBytes (m : List Host.Cell) (a : Nat) (bytes : List Byte) : List Host.Cell :=
  match bytes with
  | [] => m
  | b :: rest => Memory.writeBytes (Memory.write m a b) (a + 1) rest

/-- The `n` bytes at consecutive addresses from `a`. -/
def Memory.readBytes (m : List Host.Cell) (a n : Nat) : List Byte :=
  match n with
  | 0 => []
  | n + 1 => Memory.read m a :: Memory.readBytes m (a + 1) n

/-- Every address of the list is at least `lo`, the addresses strictly rise, and no byte is the one
an unlisted address reads as. -/
def Memory.wfFrom (lo : Nat) (m : List Host.Cell) : Bool :=
  match m with
  | [] => true
  | (k, v) :: rest => decide (lo ≤ k) && decide (v ≠ unlistedByte) && Memory.wfFrom (k + 1) rest

/-- The canonical form of a memory. -/
def Memory.wf (m : List Host.Cell) : Bool := Memory.wfFrom 0 m

/-- Every listed address is below `n`. -/
def Memory.below (n : Nat) (m : List Host.Cell) : Bool := m.all fun c => decide (c.1 < n)

/-- The two access widths (20_memory.md R61). -/
inductive Width where
  | byte | word
  deriving DecidableEq, Repr

/-- How many bytes an access moves (20_memory.md R61). -/
def Width.bytes (w : Width) : Nat :=
  match w with
  | .byte => 1
  | .word => 4

/-- `InRange(addr, n)`: on integers, no wrap-around (20_memory.md R58). -/
def State.inRange (s : State) (addr : Word) (w : Width) : Bool :=
  s.initialized && decide (addr.toNat + w.bytes ≤ s.memSize)

/-- The byte of memory at an address. -/
def State.byteAt (s : State) (a : Nat) : Byte := Memory.read s.mem a

/-- The value `MemRead(addr, n)` gives for an access in range: little-endian, a byte zero-extended
(20_memory.md R53, R56). -/
def State.memRead (s : State) (addr : Word) (w : Width) : Word :=
  let a := addr.toNat
  match w with
  | .byte => (s.byteAt a).setWidth 32
  | .word => s.byteAt (a + 3) ++ s.byteAt (a + 2) ++ s.byteAt (a + 1) ++ s.byteAt a

/-- The bytes a store of `v` writes, lowest address first (20_memory.md R53, R57). -/
def storedBytes (w : Width) (v : Word) : List Byte :=
  match w with
  | .byte => [v.extractLsb' 0 8]
  | .word => [v.extractLsb' 0 8, v.extractLsb' 8 8, v.extractLsb' 16 8, v.extractLsb' 24 8]

/-- `MemWrite(addr, n, v)` for an access in range (20_memory.md R57). -/
def State.memWrite (s : State) (addr : Word) (w : Width) (v : Word) : State :=
  { s with mem := Memory.writeBytes s.mem addr.toNat (storedBytes w v) }

/-! ### Success, failure and the condition -/

/-- The step ends with `ok = 1` (40_decode_condition.md R109). -/
def State.succeed (s : State) : State := { s with result := .succeeded }

/-- `raise Fail(cause)` (60_exceptions.md R262): the block's only exception. The step ends with
`ok = 0`; no register, flag or byte changes, nothing is saved and the PC goes nowhere (R261, R266).
Nothing returns from it: the engine is ready for the next word at once (R267). -/
def State.fail (cause : Cause) (s : State) : State := { s with result := .failed cause }

/-- Whether the result bit is 1. -/
def StepResult.ok (r : StepResult) : Bool :=
  match r with
  | .succeeded => true
  | .failed _ => false

/-- `CondPass(cond)` (40_decode_condition.md R104) on the flags as they stand (R105). -/
def State.condPass (s : State) (c : Cond) : Bool :=
  match c with
  | .eq => s.zFlag
  | .ne => !s.zFlag
  | .cs => s.cFlag
  | .cc => !s.cFlag
  | .mi => s.nFlag
  | .pl => !s.nFlag
  | .vs => s.vFlag
  | .vc => !s.vFlag
  | .hi => s.cFlag && !s.zFlag
  | .ls => !s.cFlag || s.zFlag
  | .ge => s.nFlag == s.vFlag
  | .lt => s.nFlag != s.vFlag
  | .gt => !s.zFlag && s.nFlag == s.vFlag
  | .le => s.zFlag || s.nFlag != s.vFlag
  | .al => true
  | .nv => true

/-- An instruction with condition `c` and effect `effect`: a false condition skips it, which succeeds
and changes nothing (40_decode_condition.md R102). -/
def whenPasses (c : Cond) (s : State) (effect : State → State) : Outcome :=
  .next (if s.condPass c then effect s else s.succeed)

/-- The state change of an outcome's next state; a stop stays as it is. -/
def mapNext (f : State → State) (o : Outcome) : Outcome :=
  match o with
  | .next s => .next (f s)
  | .fault r => .fault r
  | .refused r => .refused r

end Machine

end Sys2Proof
end

