-- ==== Sys2Proof/Machine/Operands.lean ====
section
/-! DEFINITION. The operand forms: the barrel shifter and operand 2 (41_barrel_shifter.md), the branch
offset, and the load/store offset and address (44_load_store.md R202, R203). -/

namespace Sys2Proof.Machine

/-- `ROR32(v, n)` (00_scope.md R8). -/
def ror32 (v : Word) (n : Nat) : Word := if n = 0 then v else (v >>> n) ||| (v <<< (32 - n))

/-- A shift by 1 to 31 (41_barrel_shifter.md R134 to R137). -/
def shiftBelow32 (t : ShiftType) (v : Word) (n : Nat) : Word :=
  match t with
  | .lsl => v <<< n
  | .lsr => v >>> n
  | .asr => v.sshiftRight n
  | .ror => ror32 v n

/-- A shift by 32 to 255 in the mathematical sense (41_barrel_shifter.md R138). -/
def shiftFrom32 (t : ShiftType) (v : Word) (n : Nat) : Word :=
  match t with
  | .lsl => 0
  | .lsr => 0
  | .asr => if v.getLsbD 31 then 0xFFFFFFFF#32 else 0
  | .ror => ror32 v (n % 32)

/-- `Shift(type, v, n)` (41_barrel_shifter.md R132): amount 0 is the identity (R133), amounts from 32
up are the parameter `SHIFT_GE32`'s (R138). -/
def shift (ge32 : ShiftGe32) (t : ShiftType) (v : Word) (n : Nat) : Word :=
  if n = 0 then v
  else if n < 32 then shiftBelow32 t v n
  else
    match ge32 with
    | .mathematical => shiftFrom32 t v n
    | .other => Config.shiftOther t v n

/-- `Operand2(iw)` in format DP_RSI: `Rm` shifted by an immediate amount (41_barrel_shifter.md R130). -/
def State.operand2Rsi (s : State) (shamt5 : Nat) (t : ShiftType) (rm : RegNum) : Word :=
  shift s.params.shiftGe32 t (s.readReg rm.index) shamt5

/-- `Operand2(iw)` in format DP_RSR: `Rm` shifted by the low byte of `Rs` (41_barrel_shifter.md R130). -/
def State.operand2Rsr (s : State) (rs : RegNum) (t : ShiftType) (rm : RegNum) : Word :=
  shift s.params.shiftGe32 t (s.readReg rm.index) (s.readReg rs.index &&& 0xFF#32).toNat

/-- `Operand2Imm(iw)` in format DP_IMM (41_barrel_shifter.md R139). -/
def operand2Imm (rot : BitVec 4) (imm8 : BitVec 8) : Word :=
  ror32 (imm8.setWidth 32) ((2 * rot.toNat) % 32)

/-- The branch offset `sext_26(imm24 << 2)` (30_encoding.md R90). -/
def branchOffset (imm24 : BitVec 24) : Word := (imm24 ++ 0b00#2).signExtend 32

/-- The immediate load/store offset, zero-extended (44_load_store.md R202). -/
def immOffset (imm12 : Nat) : Word := BitVec.ofNat 32 imm12

/-- The register load/store offset: `x[Rm]`, unshifted (44_load_store.md R202). -/
def State.regOffset (s : State) (rm : RegNum) : Word := s.readReg rm.index

/-- `index`: the base plus or minus the offset, modulo 2^32 (44_load_store.md R203). -/
def indexValue (up : Bool) (base offset : Word) : Word := if up then base + offset else base - offset

/-- The accessed address: the index when pre-indexed, the base when post-indexed (44_load_store.md
R200). -/
def accessAddr (pre : Bool) (base index : Word) : Word := if pre then index else base

end Sys2Proof.Machine
end

