-- ==== Sys2Proof/Machine/Branch.lean ====
section
/-! DEFINITION. The branch executor, B and BL (43_branch.md). -/

namespace Sys2Proof.Machine

/-- `ExecBranch(iw)` (43_branch.md R190): both sums use the PC from before the instruction, and
nothing checks the target (R191). -/
def branch (link : Bool) (imm24 : BitVec 24) (s : State) : State :=
  let old := s.pc
  let linked := if link then s.writeReg 14 (old + 4#32) else s
  (linked.writeReg 15 (old + 8#32 + branchOffset imm24)).succeed

/-- B (43_branch.md R194). -/
def execB (cond : Cond) (imm24 : BitVec 24) (s : State) : Outcome :=
  whenPasses cond s fun s => branch false imm24 s

/-- BL (43_branch.md R195). -/
def execBl (cond : Cond) (imm24 : BitVec 24) (s : State) : Outcome :=
  whenPasses cond s fun s => branch true imm24 s

end Sys2Proof.Machine
end

