-- ==== Sys2Proof/Machine/Flags.lean ====
section
/-! DEFINITION. The ALU and the flag unit (42_data_processing.md R151; 10_state.md R33). -/

namespace Sys2Proof.Machine

/-- What the ALU gives: the result, and the carry of an arithmetic operation; a logical operation has
none (42_data_processing.md R151). -/
structure AluResult where
  result : Word
  carry : Option Bool
  deriving DecidableEq, Repr

/-- `1 - Cin` as a 32-bit value (42_data_processing.md R151). -/
def borrowIn (cin : Bool) : Word := if cin then 0 else 1

/-- `Cin` as a 32-bit value. -/
def carryIn (cin : Bool) : Word := if cin then 1 else 0

/-- An arithmetic result whose carry says that it is below `bound` (42_data_processing.md R151). -/
def arithBelow (result bound : Word) : AluResult := ⟨result, some (decide (result < bound))⟩

/-- `ALU(op, A, B, Cin)` (42_data_processing.md R151). The carries of ADC, SBC and RSC are the source's
formulas, not the true carry or borrow (R173). -/
def alu (op : DpOp) (a b : Word) (cin : Bool) : AluResult :=
  match op with
  | .and => ⟨a &&& b, none⟩
  | .eor => ⟨a ^^^ b, none⟩
  | .sub => ⟨a - b, some (decide (b ≤ a))⟩
  | .rsb => ⟨b - a, some (decide (a ≤ b))⟩
  | .add => arithBelow (a + b) a
  | .adc => arithBelow (a + b + carryIn cin) a
  | .sbc => arithBelow (a - b - borrowIn cin) a
  | .rsc => arithBelow (b - a - borrowIn cin) b
  | .tst => ⟨a &&& b, none⟩
  | .teq => ⟨a ^^^ b, none⟩
  | .cmp => ⟨a - b, some (decide (b ≤ a))⟩
  | .cmn => arithBelow (a + b) a
  | .orr => ⟨a ||| b, none⟩
  | .mov => ⟨b, none⟩
  | .bic => ⟨a &&& ~~~b, none⟩
  | .mvn => ⟨~~~b, none⟩

/-- The bits N and Z of a result, in their places in the CPSR (10_state.md R33). -/
def nzBits (result : Word) : Word :=
  (if result.getLsbD 31 then 0x80000000#32 else 0) ||| (if result = 0 then 0x40000000#32 else 0)

/-- `SetNZ(result)`: N and Z replaced, C, V and bits 27:0 kept (10_state.md R33). -/
def setNZ (result cpsr : Word) : Word := nzBits result ||| (cpsr &&& 0x3FFFFFFF#32)

/-- `SetNZC(result, c)`: N, Z and C replaced, V and bits 27:0 kept (10_state.md R33). -/
def setNZC (result : Word) (c : Bool) (cpsr : Word) : Word :=
  nzBits result ||| (if c then 0x20000000#32 else 0) ||| (cpsr &&& 0x1FFFFFFF#32)

/-- The flag write of an ALU result: `SetNZC` for an arithmetic operation, `SetNZ` for a logical one
(42_data_processing.md R150, R153). -/
def State.setFlags (s : State) (r : AluResult) : State :=
  s.writeReg 16
    (match r.carry with
    | none => setNZ r.result s.cpsr
    | some c => setNZC r.result c s.cpsr)

end Sys2Proof.Machine

namespace Sys2Proof

/-- TST, TEQ, CMP and CMN, which write flags whatever `S` is and no register (42_data_processing.md
R152, R153). -/
def DpOp.isCompare (op : DpOp) : Bool :=
  match op with
  | .tst | .teq | .cmp | .cmn => true
  | .and | .eor | .sub | .rsb | .add | .adc | .sbc | .rsc | .orr | .mov | .bic | .mvn => false

end Sys2Proof
end

