-- ==== Sys2Proof/Machine/DataProcessing.lean ====
section
/-! DEFINITION. The data-processing executor and the thirty-two data-processing instructions
(42_data_processing.md). -/

namespace Sys2Proof.Machine

/-- `ExecDataProcessing(iw)` on operand 2 `b` (42_data_processing.md R150): operand 1 and `Cin` are
read from the state the step starts in, the result is written unless the operation is a compare
(R152), the flags are written when `S = 1` or the operation is a compare (R153), and the step
succeeds (R176). -/
def dataProcessing (op : DpOp) (sBit : Bool) (rn rd : RegNum) (b : Word) (s : State) : State :=
  let r := alu op (s.readReg rn.index) b s.cFlag
  let written := if op.isCompare then s else s.writeReg rd.index r.result
  let flagged := if sBit || op.isCompare then written.setFlags r else written
  flagged.succeed

/-- AND, DP_RSI (42_data_processing.md R154). -/
def execAndRsi (cond : Cond) (sBit : Bool) (rn rd : RegNum) (shamt5 : Nat) (shift : ShiftType) (rm : RegNum)
    (s : State) : Outcome :=
  whenPasses cond s fun s => dataProcessing .and sBit rn rd (s.operand2Rsi shamt5 shift rm) s

/-- AND, DP_RSR (42_data_processing.md R154). -/
def execAndRsr (cond : Cond) (sBit : Bool) (rn rd rs : RegNum) (shift : ShiftType) (rm : RegNum)
    (s : State) : Outcome :=
  whenPasses cond s fun s => dataProcessing .and sBit rn rd (s.operand2Rsr rs shift rm) s

/-- EOR, DP_RSI (42_data_processing.md R155). -/
def execEorRsi (cond : Cond) (sBit : Bool) (rn rd : RegNum) (shamt5 : Nat) (shift : ShiftType) (rm : RegNum)
    (s : State) : Outcome :=
  whenPasses cond s fun s => dataProcessing .eor sBit rn rd (s.operand2Rsi shamt5 shift rm) s

/-- EOR, DP_RSR (42_data_processing.md R155). -/
def execEorRsr (cond : Cond) (sBit : Bool) (rn rd rs : RegNum) (shift : ShiftType) (rm : RegNum)
    (s : State) : Outcome :=
  whenPasses cond s fun s => dataProcessing .eor sBit rn rd (s.operand2Rsr rs shift rm) s

/-- SUB, DP_RSI (42_data_processing.md R156). -/
def execSubRsi (cond : Cond) (sBit : Bool) (rn rd : RegNum) (shamt5 : Nat) (shift : ShiftType) (rm : RegNum)
    (s : State) : Outcome :=
  whenPasses cond s fun s => dataProcessing .sub sBit rn rd (s.operand2Rsi shamt5 shift rm) s

/-- SUB, DP_RSR (42_data_processing.md R156). -/
def execSubRsr (cond : Cond) (sBit : Bool) (rn rd rs : RegNum) (shift : ShiftType) (rm : RegNum)
    (s : State) : Outcome :=
  whenPasses cond s fun s => dataProcessing .sub sBit rn rd (s.operand2Rsr rs shift rm) s

/-- RSB, DP_RSI (42_data_processing.md R157). -/
def execRsbRsi (cond : Cond) (sBit : Bool) (rn rd : RegNum) (shamt5 : Nat) (shift : ShiftType) (rm : RegNum)
    (s : State) : Outcome :=
  whenPasses cond s fun s => dataProcessing .rsb sBit rn rd (s.operand2Rsi shamt5 shift rm) s

/-- RSB, DP_RSR (42_data_processing.md R157). -/
def execRsbRsr (cond : Cond) (sBit : Bool) (rn rd rs : RegNum) (shift : ShiftType) (rm : RegNum)
    (s : State) : Outcome :=
  whenPasses cond s fun s => dataProcessing .rsb sBit rn rd (s.operand2Rsr rs shift rm) s

/-- ADD, DP_RSI (42_data_processing.md R158). -/
def execAddRsi (cond : Cond) (sBit : Bool) (rn rd : RegNum) (shamt5 : Nat) (shift : ShiftType) (rm : RegNum)
    (s : State) : Outcome :=
  whenPasses cond s fun s => dataProcessing .add sBit rn rd (s.operand2Rsi shamt5 shift rm) s

/-- ADD, DP_RSR (42_data_processing.md R158). -/
def execAddRsr (cond : Cond) (sBit : Bool) (rn rd rs : RegNum) (shift : ShiftType) (rm : RegNum)
    (s : State) : Outcome :=
  whenPasses cond s fun s => dataProcessing .add sBit rn rd (s.operand2Rsr rs shift rm) s

/-- ADC, DP_RSI (42_data_processing.md R159). -/
def execAdcRsi (cond : Cond) (sBit : Bool) (rn rd : RegNum) (shamt5 : Nat) (shift : ShiftType) (rm : RegNum)
    (s : State) : Outcome :=
  whenPasses cond s fun s => dataProcessing .adc sBit rn rd (s.operand2Rsi shamt5 shift rm) s

/-- ADC, DP_RSR (42_data_processing.md R159). -/
def execAdcRsr (cond : Cond) (sBit : Bool) (rn rd rs : RegNum) (shift : ShiftType) (rm : RegNum)
    (s : State) : Outcome :=
  whenPasses cond s fun s => dataProcessing .adc sBit rn rd (s.operand2Rsr rs shift rm) s

/-- SBC, DP_RSI (42_data_processing.md R160). -/
def execSbcRsi (cond : Cond) (sBit : Bool) (rn rd : RegNum) (shamt5 : Nat) (shift : ShiftType) (rm : RegNum)
    (s : State) : Outcome :=
  whenPasses cond s fun s => dataProcessing .sbc sBit rn rd (s.operand2Rsi shamt5 shift rm) s

/-- SBC, DP_RSR (42_data_processing.md R160). -/
def execSbcRsr (cond : Cond) (sBit : Bool) (rn rd rs : RegNum) (shift : ShiftType) (rm : RegNum)
    (s : State) : Outcome :=
  whenPasses cond s fun s => dataProcessing .sbc sBit rn rd (s.operand2Rsr rs shift rm) s

/-- RSC, DP_RSI (42_data_processing.md R161). -/
def execRscRsi (cond : Cond) (sBit : Bool) (rn rd : RegNum) (shamt5 : Nat) (shift : ShiftType) (rm : RegNum)
    (s : State) : Outcome :=
  whenPasses cond s fun s => dataProcessing .rsc sBit rn rd (s.operand2Rsi shamt5 shift rm) s

/-- RSC, DP_RSR (42_data_processing.md R161). -/
def execRscRsr (cond : Cond) (sBit : Bool) (rn rd rs : RegNum) (shift : ShiftType) (rm : RegNum)
    (s : State) : Outcome :=
  whenPasses cond s fun s => dataProcessing .rsc sBit rn rd (s.operand2Rsr rs shift rm) s

/-- TST, DP_RSI (42_data_processing.md R162). -/
def execTstRsi (cond : Cond) (sBit : Bool) (rn rd : RegNum) (shamt5 : Nat) (shift : ShiftType) (rm : RegNum)
    (s : State) : Outcome :=
  whenPasses cond s fun s => dataProcessing .tst sBit rn rd (s.operand2Rsi shamt5 shift rm) s

/-- TST, DP_RSR (42_data_processing.md R162). -/
def execTstRsr (cond : Cond) (sBit : Bool) (rn rd rs : RegNum) (shift : ShiftType) (rm : RegNum)
    (s : State) : Outcome :=
  whenPasses cond s fun s => dataProcessing .tst sBit rn rd (s.operand2Rsr rs shift rm) s

/-- TEQ, DP_RSI (42_data_processing.md R163). -/
def execTeqRsi (cond : Cond) (sBit : Bool) (rn rd : RegNum) (shamt5 : Nat) (shift : ShiftType) (rm : RegNum)
    (s : State) : Outcome :=
  whenPasses cond s fun s => dataProcessing .teq sBit rn rd (s.operand2Rsi shamt5 shift rm) s

/-- TEQ, DP_RSR (42_data_processing.md R163). -/
def execTeqRsr (cond : Cond) (sBit : Bool) (rn rd rs : RegNum) (shift : ShiftType) (rm : RegNum)
    (s : State) : Outcome :=
  whenPasses cond s fun s => dataProcessing .teq sBit rn rd (s.operand2Rsr rs shift rm) s

/-- CMP, DP_RSI (42_data_processing.md R164). -/
def execCmpRsi (cond : Cond) (sBit : Bool) (rn rd : RegNum) (shamt5 : Nat) (shift : ShiftType) (rm : RegNum)
    (s : State) : Outcome :=
  whenPasses cond s fun s => dataProcessing .cmp sBit rn rd (s.operand2Rsi shamt5 shift rm) s

/-- CMP, DP_RSR (42_data_processing.md R164). -/
def execCmpRsr (cond : Cond) (sBit : Bool) (rn rd rs : RegNum) (shift : ShiftType) (rm : RegNum)
    (s : State) : Outcome :=
  whenPasses cond s fun s => dataProcessing .cmp sBit rn rd (s.operand2Rsr rs shift rm) s

/-- CMN, DP_RSI (42_data_processing.md R165). -/
def execCmnRsi (cond : Cond) (sBit : Bool) (rn rd : RegNum) (shamt5 : Nat) (shift : ShiftType) (rm : RegNum)
    (s : State) : Outcome :=
  whenPasses cond s fun s => dataProcessing .cmn sBit rn rd (s.operand2Rsi shamt5 shift rm) s

/-- CMN, DP_RSR (42_data_processing.md R165). -/
def execCmnRsr (cond : Cond) (sBit : Bool) (rn rd rs : RegNum) (shift : ShiftType) (rm : RegNum)
    (s : State) : Outcome :=
  whenPasses cond s fun s => dataProcessing .cmn sBit rn rd (s.operand2Rsr rs shift rm) s

/-- ORR, DP_RSI (42_data_processing.md R166). -/
def execOrrRsi (cond : Cond) (sBit : Bool) (rn rd : RegNum) (shamt5 : Nat) (shift : ShiftType) (rm : RegNum)
    (s : State) : Outcome :=
  whenPasses cond s fun s => dataProcessing .orr sBit rn rd (s.operand2Rsi shamt5 shift rm) s

/-- ORR, DP_RSR (42_data_processing.md R166). -/
def execOrrRsr (cond : Cond) (sBit : Bool) (rn rd rs : RegNum) (shift : ShiftType) (rm : RegNum)
    (s : State) : Outcome :=
  whenPasses cond s fun s => dataProcessing .orr sBit rn rd (s.operand2Rsr rs shift rm) s

/-- MOV, DP_RSI (42_data_processing.md R167). -/
def execMovRsi (cond : Cond) (sBit : Bool) (rn rd : RegNum) (shamt5 : Nat) (shift : ShiftType) (rm : RegNum)
    (s : State) : Outcome :=
  whenPasses cond s fun s => dataProcessing .mov sBit rn rd (s.operand2Rsi shamt5 shift rm) s

/-- MOV, DP_RSR (42_data_processing.md R167). -/
def execMovRsr (cond : Cond) (sBit : Bool) (rn rd rs : RegNum) (shift : ShiftType) (rm : RegNum)
    (s : State) : Outcome :=
  whenPasses cond s fun s => dataProcessing .mov sBit rn rd (s.operand2Rsr rs shift rm) s

/-- BIC, DP_RSI (42_data_processing.md R168). -/
def execBicRsi (cond : Cond) (sBit : Bool) (rn rd : RegNum) (shamt5 : Nat) (shift : ShiftType) (rm : RegNum)
    (s : State) : Outcome :=
  whenPasses cond s fun s => dataProcessing .bic sBit rn rd (s.operand2Rsi shamt5 shift rm) s

/-- BIC, DP_RSR (42_data_processing.md R168). -/
def execBicRsr (cond : Cond) (sBit : Bool) (rn rd rs : RegNum) (shift : ShiftType) (rm : RegNum)
    (s : State) : Outcome :=
  whenPasses cond s fun s => dataProcessing .bic sBit rn rd (s.operand2Rsr rs shift rm) s

/-- MVN, DP_RSI (42_data_processing.md R169). -/
def execMvnRsi (cond : Cond) (sBit : Bool) (rn rd : RegNum) (shamt5 : Nat) (shift : ShiftType) (rm : RegNum)
    (s : State) : Outcome :=
  whenPasses cond s fun s => dataProcessing .mvn sBit rn rd (s.operand2Rsi shamt5 shift rm) s

/-- MVN, DP_RSR (42_data_processing.md R169). -/
def execMvnRsr (cond : Cond) (sBit : Bool) (rn rd rs : RegNum) (shift : ShiftType) (rm : RegNum)
    (s : State) : Outcome :=
  whenPasses cond s fun s => dataProcessing .mvn sBit rn rd (s.operand2Rsr rs shift rm) s

/-- A word of format DP_IMM in the configuration `DECODE_001 = DataProcImm` (41_barrel_shifter.md
R139): `ExecDataProcessing` with `Operand2Imm` in place of `Operand2`. -/
def execDataProcImm (d : DpImm) (s : State) : Outcome :=
  whenPasses d.cond s fun s => dataProcessing d.op d.sBit d.rn d.rd (operand2Imm d.rot d.imm8) s

end Sys2Proof.Machine
end

