-- ==== Sys2Proof/Machine/Illegal.lean ====
section
/-! DEFINITION. The illegal class (40_decode_condition.md R108; 30_encoding.md R94). -/

namespace Sys2Proof.Machine

/-- A word with `iw[27:26] = 11`: when its condition passes the step fails and changes nothing else
(40_decode_condition.md R108); when it does not, the word is skipped (R102). With
`ILLEGAL_BEFORE_COND` it fails whatever its condition (92_eei_decisions.md D6). -/
def execIllegal (cond : Cond) (s : State) : Outcome :=
  if s.params.illegalBeforeCond then .next (s.fail .illegalInstruction)
  else whenPasses cond s fun s => s.fail .illegalInstruction

end Sys2Proof.Machine
end

