-- ==== Sys2Proof/Machine/LoadStore.lean ====
section
/-! DEFINITION. The load/store executor and the twenty-four load/store instructions
(44_load_store.md). -/

namespace Sys2Proof.Machine

/-- The base writeback of post-indexed modes, which a pre-indexed mode does not make
(44_load_store.md R213). -/
def State.writeBack (pre : Bool) (rn : RegNum) (index : Word) (s : State) : State :=
  if pre then s else s.writeReg rn.index index

/-- `ExecLoadStore(iw)` for a load (44_load_store.md R200): the bounds check first, then the loaded
register, then the base writeback, so that with `Rd = Rn` the index stays (R201). -/
def load (w : Width) (pre up : Bool) (rn rd : RegNum) (offset : Word) (s : State) : State :=
  let base := s.readReg rn.index
  let index := indexValue up base offset
  let addr := accessAddr pre base index
  if s.inRange addr w then
    ((s.writeReg rd.index (s.memRead addr w)).writeBack pre rn index).succeed
  else
    s.fail .accessOutOfRange

/-- `ExecLoadStore(iw)` for a store (44_load_store.md R200): the bounds check first, then the bytes of
`x[Rd]` as it stands at the start of the step, then the base writeback. -/
def store (w : Width) (pre up : Bool) (rn rd : RegNum) (offset : Word) (s : State) : State :=
  let base := s.readReg rn.index
  let index := indexValue up base offset
  let addr := accessAddr pre base index
  if s.inRange addr w then
    ((s.memWrite addr w (s.readReg rd.index)).writeBack pre rn index).succeed
  else
    s.fail .accessOutOfRange

/-- LDR, immediate offset, pre-indexed (44_load_store.md R209, R204). -/
def execLdrImmPre (cond : Cond) (u : Bool) (rn rd : RegNum) (imm12 : Nat) (s : State) : Outcome :=
  whenPasses cond s fun s => load .word true u rn rd (immOffset imm12) s

/-- LDRB, immediate offset, pre-indexed (44_load_store.md R210, R204). -/
def execLdrbImmPre (cond : Cond) (u : Bool) (rn rd : RegNum) (imm12 : Nat) (s : State) : Outcome :=
  whenPasses cond s fun s => load .byte true u rn rd (immOffset imm12) s

/-- STR, immediate offset, pre-indexed (44_load_store.md R211, R204). -/
def execStrImmPre (cond : Cond) (u : Bool) (rn rd : RegNum) (imm12 : Nat) (s : State) : Outcome :=
  whenPasses cond s fun s => store .word true u rn rd (immOffset imm12) s

/-- STRB, immediate offset, pre-indexed (44_load_store.md R212, R204). -/
def execStrbImmPre (cond : Cond) (u : Bool) (rn rd : RegNum) (imm12 : Nat) (s : State) : Outcome :=
  whenPasses cond s fun s => store .byte true u rn rd (immOffset imm12) s

/-- LDR, immediate offset, post-indexed (44_load_store.md R209, R205). -/
def execLdrImmPost (cond : Cond) (u : Bool) (rn rd : RegNum) (imm12 : Nat) (s : State) : Outcome :=
  whenPasses cond s fun s => load .word false u rn rd (immOffset imm12) s

/-- LDRB, immediate offset, post-indexed (44_load_store.md R210, R205). -/
def execLdrbImmPost (cond : Cond) (u : Bool) (rn rd : RegNum) (imm12 : Nat) (s : State) : Outcome :=
  whenPasses cond s fun s => load .byte false u rn rd (immOffset imm12) s

/-- STR, immediate offset, post-indexed (44_load_store.md R211, R205). -/
def execStrImmPost (cond : Cond) (u : Bool) (rn rd : RegNum) (imm12 : Nat) (s : State) : Outcome :=
  whenPasses cond s fun s => store .word false u rn rd (immOffset imm12) s

/-- STRB, immediate offset, post-indexed (44_load_store.md R212, R205). -/
def execStrbImmPost (cond : Cond) (u : Bool) (rn rd : RegNum) (imm12 : Nat) (s : State) : Outcome :=
  whenPasses cond s fun s => store .byte false u rn rd (immOffset imm12) s

/-- LDR, register offset, pre-indexed (44_load_store.md R209, R206). -/
def execLdrRegPre (cond : Cond) (u : Bool) (rn rd : RegNum) (rm : RegNum) (s : State) : Outcome :=
  whenPasses cond s fun s => load .word true u rn rd (s.regOffset rm) s

/-- LDRB, register offset, pre-indexed (44_load_store.md R210, R206). -/
def execLdrbRegPre (cond : Cond) (u : Bool) (rn rd : RegNum) (rm : RegNum) (s : State) : Outcome :=
  whenPasses cond s fun s => load .byte true u rn rd (s.regOffset rm) s

/-- STR, register offset, pre-indexed (44_load_store.md R211, R206). -/
def execStrRegPre (cond : Cond) (u : Bool) (rn rd : RegNum) (rm : RegNum) (s : State) : Outcome :=
  whenPasses cond s fun s => store .word true u rn rd (s.regOffset rm) s

/-- STRB, register offset, pre-indexed (44_load_store.md R212, R206). -/
def execStrbRegPre (cond : Cond) (u : Bool) (rn rd : RegNum) (rm : RegNum) (s : State) : Outcome :=
  whenPasses cond s fun s => store .byte true u rn rd (s.regOffset rm) s

/-- LDR, register offset, post-indexed (44_load_store.md R209, R207). -/
def execLdrRegPost (cond : Cond) (u : Bool) (rn rd : RegNum) (rm : RegNum) (s : State) : Outcome :=
  whenPasses cond s fun s => load .word false u rn rd (s.regOffset rm) s

/-- LDRB, register offset, post-indexed (44_load_store.md R210, R207). -/
def execLdrbRegPost (cond : Cond) (u : Bool) (rn rd : RegNum) (rm : RegNum) (s : State) : Outcome :=
  whenPasses cond s fun s => load .byte false u rn rd (s.regOffset rm) s

/-- STR, register offset, post-indexed (44_load_store.md R211, R207). -/
def execStrRegPost (cond : Cond) (u : Bool) (rn rd : RegNum) (rm : RegNum) (s : State) : Outcome :=
  whenPasses cond s fun s => store .word false u rn rd (s.regOffset rm) s

/-- STRB, register offset, post-indexed (44_load_store.md R212, R207). -/
def execStrbRegPost (cond : Cond) (u : Bool) (rn rd : RegNum) (rm : RegNum) (s : State) : Outcome :=
  whenPasses cond s fun s => store .byte false u rn rd (s.regOffset rm) s

/-- LDR, register offset, pre-indexed, a word with `iw[27:25] = 001` (44_load_store.md R209, R206, R216). -/
def execLdrAlias001Pre (cond : Cond) (u : Bool) (rn rd : RegNum) (rm : RegNum) (s : State) : Outcome :=
  whenPasses cond s fun s => load .word true u rn rd (s.regOffset rm) s

/-- LDRB, register offset, pre-indexed, a word with `iw[27:25] = 001` (44_load_store.md R210, R206, R216). -/
def execLdrbAlias001Pre (cond : Cond) (u : Bool) (rn rd : RegNum) (rm : RegNum) (s : State) : Outcome :=
  whenPasses cond s fun s => load .byte true u rn rd (s.regOffset rm) s

/-- STR, register offset, pre-indexed, a word with `iw[27:25] = 001` (44_load_store.md R211, R206, R216). -/
def execStrAlias001Pre (cond : Cond) (u : Bool) (rn rd : RegNum) (rm : RegNum) (s : State) : Outcome :=
  whenPasses cond s fun s => store .word true u rn rd (s.regOffset rm) s

/-- STRB, register offset, pre-indexed, a word with `iw[27:25] = 001` (44_load_store.md R212, R206, R216). -/
def execStrbAlias001Pre (cond : Cond) (u : Bool) (rn rd : RegNum) (rm : RegNum) (s : State) : Outcome :=
  whenPasses cond s fun s => store .byte true u rn rd (s.regOffset rm) s

/-- LDR, register offset, post-indexed, a word with `iw[27:25] = 001` (44_load_store.md R209, R207, R216). -/
def execLdrAlias001Post (cond : Cond) (u : Bool) (rn rd : RegNum) (rm : RegNum) (s : State) : Outcome :=
  whenPasses cond s fun s => load .word false u rn rd (s.regOffset rm) s

/-- LDRB, register offset, post-indexed, a word with `iw[27:25] = 001` (44_load_store.md R210, R207, R216). -/
def execLdrbAlias001Post (cond : Cond) (u : Bool) (rn rd : RegNum) (rm : RegNum) (s : State) : Outcome :=
  whenPasses cond s fun s => load .byte false u rn rd (s.regOffset rm) s

/-- STR, register offset, post-indexed, a word with `iw[27:25] = 001` (44_load_store.md R211, R207, R216). -/
def execStrAlias001Post (cond : Cond) (u : Bool) (rn rd : RegNum) (rm : RegNum) (s : State) : Outcome :=
  whenPasses cond s fun s => store .word false u rn rd (s.regOffset rm) s

/-- STRB, register offset, post-indexed, a word with `iw[27:25] = 001` (44_load_store.md R212, R207, R216). -/
def execStrbAlias001Post (cond : Cond) (u : Bool) (rn rd : RegNum) (rm : RegNum) (s : State) : Outcome :=
  whenPasses cond s fun s => store .byte false u rn rd (s.regOffset rm) s

end Sys2Proof.Machine
end

