-- ==== Sys2Proof/Machine/Dispatch.lean ====
section
/-! DEFINITION. The meaning of every instruction: one arm per constructor of `Instr`. -/

namespace Sys2Proof.Machine

def exec (i : Instr) (s : State) : Host.Outcome State Fault Refusal :=
  match i with
  | .andRsi c b rn rd n t rm => Sys2Proof.Machine.execAndRsi c b rn rd n t rm s
  | .andRsr c b rn rd rs _ t rm => Sys2Proof.Machine.execAndRsr c b rn rd rs t rm s
  | .eorRsi c b rn rd n t rm => Sys2Proof.Machine.execEorRsi c b rn rd n t rm s
  | .eorRsr c b rn rd rs _ t rm => Sys2Proof.Machine.execEorRsr c b rn rd rs t rm s
  | .subRsi c b rn rd n t rm => Sys2Proof.Machine.execSubRsi c b rn rd n t rm s
  | .subRsr c b rn rd rs _ t rm => Sys2Proof.Machine.execSubRsr c b rn rd rs t rm s
  | .rsbRsi c b rn rd n t rm => Sys2Proof.Machine.execRsbRsi c b rn rd n t rm s
  | .rsbRsr c b rn rd rs _ t rm => Sys2Proof.Machine.execRsbRsr c b rn rd rs t rm s
  | .addRsi c b rn rd n t rm => Sys2Proof.Machine.execAddRsi c b rn rd n t rm s
  | .addRsr c b rn rd rs _ t rm => Sys2Proof.Machine.execAddRsr c b rn rd rs t rm s
  | .adcRsi c b rn rd n t rm => Sys2Proof.Machine.execAdcRsi c b rn rd n t rm s
  | .adcRsr c b rn rd rs _ t rm => Sys2Proof.Machine.execAdcRsr c b rn rd rs t rm s
  | .sbcRsi c b rn rd n t rm => Sys2Proof.Machine.execSbcRsi c b rn rd n t rm s
  | .sbcRsr c b rn rd rs _ t rm => Sys2Proof.Machine.execSbcRsr c b rn rd rs t rm s
  | .rscRsi c b rn rd n t rm => Sys2Proof.Machine.execRscRsi c b rn rd n t rm s
  | .rscRsr c b rn rd rs _ t rm => Sys2Proof.Machine.execRscRsr c b rn rd rs t rm s
  | .tstRsi c b rn rd n t rm => Sys2Proof.Machine.execTstRsi c b rn rd n t rm s
  | .tstRsr c b rn rd rs _ t rm => Sys2Proof.Machine.execTstRsr c b rn rd rs t rm s
  | .teqRsi c b rn rd n t rm => Sys2Proof.Machine.execTeqRsi c b rn rd n t rm s
  | .teqRsr c b rn rd rs _ t rm => Sys2Proof.Machine.execTeqRsr c b rn rd rs t rm s
  | .cmpRsi c b rn rd n t rm => Sys2Proof.Machine.execCmpRsi c b rn rd n t rm s
  | .cmpRsr c b rn rd rs _ t rm => Sys2Proof.Machine.execCmpRsr c b rn rd rs t rm s
  | .cmnRsi c b rn rd n t rm => Sys2Proof.Machine.execCmnRsi c b rn rd n t rm s
  | .cmnRsr c b rn rd rs _ t rm => Sys2Proof.Machine.execCmnRsr c b rn rd rs t rm s
  | .orrRsi c b rn rd n t rm => Sys2Proof.Machine.execOrrRsi c b rn rd n t rm s
  | .orrRsr c b rn rd rs _ t rm => Sys2Proof.Machine.execOrrRsr c b rn rd rs t rm s
  | .movRsi c b rn rd n t rm => Sys2Proof.Machine.execMovRsi c b rn rd n t rm s
  | .movRsr c b rn rd rs _ t rm => Sys2Proof.Machine.execMovRsr c b rn rd rs t rm s
  | .bicRsi c b rn rd n t rm => Sys2Proof.Machine.execBicRsi c b rn rd n t rm s
  | .bicRsr c b rn rd rs _ t rm => Sys2Proof.Machine.execBicRsr c b rn rd rs t rm s
  | .mvnRsi c b rn rd n t rm => Sys2Proof.Machine.execMvnRsi c b rn rd n t rm s
  | .mvnRsr c b rn rd rs _ t rm => Sys2Proof.Machine.execMvnRsr c b rn rd rs t rm s
  | .ldrImmPre c u _ rn rd n => Sys2Proof.Machine.execLdrImmPre c u rn rd n s
  | .ldrbImmPre c u _ rn rd n => Sys2Proof.Machine.execLdrbImmPre c u rn rd n s
  | .strImmPre c u _ rn rd n => Sys2Proof.Machine.execStrImmPre c u rn rd n s
  | .strbImmPre c u _ rn rd n => Sys2Proof.Machine.execStrbImmPre c u rn rd n s
  | .ldrImmPost c u _ rn rd n => Sys2Proof.Machine.execLdrImmPost c u rn rd n s
  | .ldrbImmPost c u _ rn rd n => Sys2Proof.Machine.execLdrbImmPost c u rn rd n s
  | .strImmPost c u _ rn rd n => Sys2Proof.Machine.execStrImmPost c u rn rd n s
  | .strbImmPost c u _ rn rd n => Sys2Proof.Machine.execStrbImmPost c u rn rd n s
  | .ldrRegPre c u _ rn rd _ rm => Sys2Proof.Machine.execLdrRegPre c u rn rd rm s
  | .ldrbRegPre c u _ rn rd _ rm => Sys2Proof.Machine.execLdrbRegPre c u rn rd rm s
  | .strRegPre c u _ rn rd _ rm => Sys2Proof.Machine.execStrRegPre c u rn rd rm s
  | .strbRegPre c u _ rn rd _ rm => Sys2Proof.Machine.execStrbRegPre c u rn rd rm s
  | .ldrRegPost c u _ rn rd _ rm => Sys2Proof.Machine.execLdrRegPost c u rn rd rm s
  | .ldrbRegPost c u _ rn rd _ rm => Sys2Proof.Machine.execLdrbRegPost c u rn rd rm s
  | .strRegPost c u _ rn rd _ rm => Sys2Proof.Machine.execStrRegPost c u rn rd rm s
  | .strbRegPost c u _ rn rd _ rm => Sys2Proof.Machine.execStrbRegPost c u rn rd rm s
  | .ldrAlias001Pre c u _ rn rd _ rm => Sys2Proof.Machine.execLdrAlias001Pre c u rn rd rm s
  | .ldrbAlias001Pre c u _ rn rd _ rm => Sys2Proof.Machine.execLdrbAlias001Pre c u rn rd rm s
  | .strAlias001Pre c u _ rn rd _ rm => Sys2Proof.Machine.execStrAlias001Pre c u rn rd rm s
  | .strbAlias001Pre c u _ rn rd _ rm => Sys2Proof.Machine.execStrbAlias001Pre c u rn rd rm s
  | .ldrAlias001Post c u _ rn rd _ rm => Sys2Proof.Machine.execLdrAlias001Post c u rn rd rm s
  | .ldrbAlias001Post c u _ rn rd _ rm => Sys2Proof.Machine.execLdrbAlias001Post c u rn rd rm s
  | .strAlias001Post c u _ rn rd _ rm => Sys2Proof.Machine.execStrAlias001Post c u rn rd rm s
  | .strbAlias001Post c u _ rn rd _ rm => Sys2Proof.Machine.execStrbAlias001Post c u rn rd rm s
  | .b c _ k => Sys2Proof.Machine.execB c k s
  | .bl c _ k => Sys2Proof.Machine.execBl c k s
  | .illegal c _ => Sys2Proof.Machine.execIllegal c s

end Sys2Proof.Machine
end

