-- ==== Sys2Proof/Machine/Boundary.lean ====
section
/-! DEFINITION. The instruction step (40_decode_condition.md R100), batches and the host transactions
(50_host_interface.md). -/

namespace Sys2Proof.Machine

/-! ### The instruction step -/

/-- The counter's increment, modulo 2^64 (40_decode_condition.md R110; 10_state.md R37). -/
def State.countStep (s : State) : State := { s with icount := s.icount + 1 }

/-- The decoded word executed: every word is an instruction of `Instr` under the normative
`DECODE_001`; under `DataProcImm` the words with `iw[27:25] = 001` are of format DP_IMM instead
(30_encoding.md R81, R84, R93). -/
def runWord (iw : Word) (s : State) : Outcome :=
  match s.params.decode001, isWord001 iw with
  | .dataProcImm, true => execDataProcImm (decodeDpImm iw) s
  | _, _ => exec (decode iw) s

/-- `Step(iw)` (40_decode_condition.md R100): an uninitialized engine fails and changes nothing
(R101); otherwise the counter advances, and the word is executed. -/
def stepWord (iw : Word) (s : State) : Outcome :=
  if s.initialized then runWord iw s.countStep else .next (s.fail .uninitialized)

/-! ### Execution transactions -/

/-- The reply of a transaction that has completed. -/
def State.respond (r : Reply) (s : State) : State := { s with reply := some r }

/-- `executeInstruction(iw)` (50_host_interface.md R239). -/
def executeInstruction (iw : Word) (s : State) : Outcome :=
  mapNext (fun t => t.respond (.ok t.result.ok)) (stepWord iw s)

/-- After a word of a batch: a failure ends the batch with the count so far, the last word ends it
with the whole count, and otherwise the rest stays in progress (50_host_interface.md R244). -/
def State.continueBatch (rest : List Word) (count : Nat) (s : State) : State :=
  if s.result.ok then
    match rest with
    | [] => { s with batch := none, reply := some (.count (count + 1)) }
    | _ :: _ => { s with batch := some ⟨rest, count + 1⟩ }
  else { s with batch := none, reply := some (.count count) }

/-- One word of a batch, or the end of an empty one (50_host_interface.md R241 to R244). -/
def stepBatch (b : Batch) (s : State) : Outcome :=
  match b.words with
  | [] => .next { s with batch := none, reply := some (.count b.count) }
  | iw :: rest => mapNext (State.continueBatch rest b.count) (stepWord iw s)

/-! ### Memory, register and counter transactions -/

/-- `init(size)` (50_host_interface.md R232): everything but what the host still has to present and
the parameters is as after reset. A failed allocation leaves the engine uninitialized (R233). A size
above `maxCapacity` is refused, as 93_implementation_defined.md U17 asks. -/
def initEngine (size : Nat) (allocOk : Bool) (s : State) : Outcome :=
  if maxCapacity < initCapacity size then .refused .capacityUnsupported
  else if allocOk then
    .next (({ State.afterInit (initCapacity size) s.params with requests := s.requests }).respond (.ok true))
  else .next ({ s with initialized := false }.respond (.ok false))

/-- The capacity after doubling until `limit` fits, with `fuel` doublings at most
(50_host_interface.md R234). -/
def growCapacity (fuel cap limit : Nat) : Nat :=
  match fuel with
  | 0 => cap
  | fuel + 1 => if limit ≤ cap then cap else growCapacity fuel (2 * cap) limit

/-- The capacity that holds `limit` bytes. From 1 byte up, 33 doublings pass 2^32, the largest
capacity the spec supports (00_scope.md R6). -/
def grownCapacity (cap limit : Nat) : Nat := growCapacity 33 cap limit

/-- `writeMemory(addr, data)` (50_host_interface.md R234). An empty write changes nothing
(92_eei_decisions.md D24). A growth whose allocation fails changes nothing, whatever its size (D20); one
that succeeds past `maxCapacity` leaves what the spec supports (log entry 12). -/
def writeMemory (addr : Nat) (data : List Byte) (allocOk : Bool) (s : State) : Outcome :=
  let limit := addr + data.length
  let newCap := grownCapacity s.cap limit
  if !s.initialized then .next (s.respond (.ok false))
  else if data.isEmpty then .next (s.respond (.ok true))
  else if s.cap < limit && !allocOk then .next (s.respond (.ok false))
  else if s.cap < limit && (decide (maxCapacity < newCap) || decide (newCap < limit)) then
    .refused .capacityUnsupported
  else
    .next (({ s with
      cap := newCap
      memSize := max s.memSize limit
      mem := Memory.writeBytes s.mem addr data }).respond (.ok true))

/-- `readMemory(addr, len)` (50_host_interface.md R235). -/
def readMemory (addr len : Nat) (s : State) : Outcome :=
  .next (s.respond (.bytes
    (if s.initialized && decide (addr + len ≤ s.memSize) then some (Memory.readBytes s.mem addr len) else none)))

/-- A transaction the spec gives a meaning only on an initialized engine (50_host_interface.md R249,
92_eei_decisions.md D17). -/
def whenInitialized (s : State) (o : Outcome) : Outcome :=
  if s.initialized then o else .refused .beforeInit

/-- `setRegister(reg, value)` (50_host_interface.md R236): no effect above index 16. -/
def setRegister (reg : Nat) (value : Word) (s : State) : Outcome :=
  whenInitialized s (.next ((if h : reg < 17 then s.writeReg ⟨reg, h⟩ value else s).respond .done))

/-- `getRegister(reg)` (50_host_interface.md R237): 0 above index 16. -/
def getRegister (reg : Nat) (s : State) : Outcome :=
  whenInitialized s (.next (s.respond (.word (if h : reg < 17 then s.readReg ⟨reg, h⟩ else 0))))

/-- The transaction `t` (50_host_interface.md R231). -/
def perform (t : Transaction) (s : State) : Outcome :=
  match t with
  | .create => .next ({ s with initialized := false }.respond .created)
  | .init size allocOk => initEngine size allocOk s
  | .writeMemory addr data allocOk => writeMemory addr data allocOk s
  | .readMemory addr len => readMemory addr len s
  | .setRegister reg value => setRegister reg value s
  | .getRegister reg => getRegister reg s
  | .setPC value => setRegister 15 value s
  | .getPC => getRegister 15 s
  | .executeInstruction iw => executeInstruction iw s
  | .executeInstructions iws => stepBatch ⟨iws, 0⟩ s
  | .getInstructionCount => whenInitialized s (.next (s.respond (.counter s.icount)))
  | .getMemorySize => whenInitialized s (.next (s.respond (.size s.memSize)))
  | .destroy => .fault .destroyed

/-- What the block does next: the next word of the batch in progress, which no other transaction can
interrupt (50_host_interface.md R243); else the oldest transaction presented; else nothing
(60_exceptions.md R270, R281). -/
def advance (s : State) : Outcome :=
  match s.batch, s.requests with
  | some b, _ => stepBatch b { s with reply := none }
  | none, [] => .next s
  | none, t :: rest => perform t { s with requests := rest, reply := none }

/-- The state with the host presenting the word `iw` next. -/
def State.present (iw : Word) (s : State) : State :=
  { s with batch := none, requests := .executeInstruction iw :: s.requests }

end Sys2Proof.Machine
end

