-- ==== Sys2Proof/Machine/Step.lean ====
section
/-! DEFINITION. One step of the machine, and where its next instruction comes from. -/

namespace Sys2Proof.Machine

/-- One step: one instruction word, or one transaction that executes none (00_scope.md R10). -/
def step (s : State) : Host.Outcome State Fault Refusal := advance s

/-- The block fetches from no memory: the host presents each word (10_state.md R26). The word is
presented as the next transaction, with no batch in progress (log entry 4). -/
def State.withFetchWord (s : State) (nbits w : Nat) : State :=
  s.present (BitVec.ofNat 32 (w % 2 ^ nbits))

end Sys2Proof.Machine
end

