-- ==== Sys2Proof/Safety.lean ====
section
/-! DEFINITION. The invariant of the machine's states, and what a run is. -/

namespace Sys2Proof.Machine

/-- The shadow fields equal their registers (10_state.md R25). -/
abbrev State.Mirrored (s : State) : Prop :=
  s.pcShadow = s.readReg 15 ∧ s.spShadow = s.readReg 13 ∧ s.lrShadow = s.readReg 14

/-- The memory image is in its canonical form, lists no byte at or above the logical size, and its
sizes are in order (10_state.md R38, 20_memory.md R72, 00_scope.md R6). -/
abbrev State.ImageWf (s : State) : Prop :=
  Memory.wf s.mem = true ∧ Memory.below s.memSize s.mem = true ∧ s.memSize ≤ s.cap ∧ s.cap ≤ maxCapacity ∧
    (s.initialized = true → 1 ≤ s.cap)

/-- A batch in progress still has a word to execute. -/
abbrev State.BatchWf (s : State) : Prop := s.batch.all (fun b => !b.words.isEmpty) = true

/-- The invariant every step keeps. -/
abbrev State.Inv (s : State) : Prop := s.Mirrored ∧ s.ImageWf ∧ s.BatchWf

/-- `t` is reached from `s` by some number of steps. -/
def Reaches (s t : State) : Prop := ∃ n, core.run n s = .next t

/-- A safe run of `n` steps: it meets no stop of the model (no transaction the spec gives no meaning,
no end of the instance's life). A failing instruction is no stop: the engine goes on. -/
def SafeRun (n : Nat) (s : State) : Prop := ∃ t, core.run n s = .next t

end Sys2Proof.Machine
end

