-- ==== Sys2Proof/Certificates/Slice0/Obligations.lean ====
section
/-! DEFINITION. The statements for the provers, in the terms of the spec's numbered rules. The
definitions before them say once what a frame, a data-processing instruction, a load, a store and a
branch are required to do. -/

namespace Sys2Proof.Claims

open Sys2Proof.Machine

/-! ### Frames -/

/-- Nothing but registers, flags, memory bytes and the result bit differs. -/
structure SameElsewhere (s t : State) : Prop where
  memSize : t.memSize = s.memSize
  cap : t.cap = s.cap
  icount : t.icount = s.icount
  initialized : t.initialized = s.initialized
  params : t.params = s.params
  requests : t.requests = s.requests
  batch : t.batch = s.batch
  reply : t.reply = s.reply

/-- The registers `written` names a value for hold it, their shadow fields too (10_state.md R25), and
every other register and shadow field is unchanged. -/
structure RegsAre (s t : State) (written : RegNum → Option Word) : Prop where
  register : ∀ q : RegNum, t.readReg q.index = (written q).getD (s.readReg q.index)
  pcShadow : t.pcShadow = (written 15).getD s.pcShadow
  spShadow : t.spShadow = (written 13).getD s.spShadow
  lrShadow : t.lrShadow = (written 14).getD s.lrShadow

/-- Every byte of memory is unchanged. -/
def SameMemory (s t : State) : Prop := ∀ a, t.byteAt a = s.byteAt a

/-- The registers `pairs` names are written, the first pair of a register counting. -/
def only (pairs : List (RegNum × Word)) (q : RegNum) : Option Word := pairs.lookup q

/-! ### Data processing -/

/-- N, Z and C when the flags are written: bit 31 of the result, whether it is 0, and the carry, or the
old C where the operation has none (10_state.md R33). -/
structure FlagsAre (s t : State) (writes : Bool) (result : Word) (carry : Option Bool) : Prop where
  n : t.nFlag = if writes then decide (2 ^ 31 ≤ result.toNat) else s.nFlag
  z : t.zFlag = if writes then decide (result.toNat = 0) else s.zFlag
  c : t.cFlag = if writes then carry.getD s.cFlag else s.cFlag
  /-- V and bits 27:0 are kept (10_state.md R30, R34). -/
  low : ∀ k, k < 29 → t.cpsr.getLsbD k = s.cpsr.getLsbD k

/-- What a data-processing instruction leaves: the result in `Rd` unless it is a compare, the flags
written when `S = 1` or it is a compare, memory and everything else unchanged, success. -/
structure DpLeaves (s t : State) (compare sBit : Bool) (rd : RegNum) (result : Word) (carry : Option Bool) :
    Prop where
  regs : RegsAre s t (only (if compare then [] else [(rd, result)]))
  flags : FlagsAre s t (sBit || compare) result carry
  memory : SameMemory s t
  result : t.result = .succeeded
  elsewhere : SameElsewhere s t

abbrev RsiForm := Cond → Bool → RegNum → RegNum → Nat → ShiftType → RegNum → Instr
abbrev RsrForm := Cond → Bool → RegNum → RegNum → RegNum → Bool → ShiftType → RegNum → Instr

/-- The words with `iw[27:25] = 000` and operation field `op` decode to these two constructors, by
`iw[4]`, with the fields of 30_encoding.md R82 and R83. -/
def DpWords (op : BitVec 4) (rsi : RsiForm) (rsr : RsrForm) : Prop :=
  ∀ w : Word, w.extractLsb' 25 3 = 0b000#3 → w.extractLsb' 21 4 = op →
    decode w =
      if w.getLsbD 4 then
        rsr (Cond.ofBits (w.extractLsb' 28 4)) (w.getLsbD 20) (regField w 16) (regField w 12) (regField w 8)
          (w.getLsbD 7) (ShiftType.ofBits (w.extractLsb' 5 2)) (regField w 0)
      else
        rsi (Cond.ofBits (w.extractLsb' 28 4)) (w.getLsbD 20) (regField w 16) (regField w 12)
          (w.extractLsb' 7 5).toNat (ShiftType.ofBits (w.extractLsb' 5 2)) (regField w 0)

/-- The rule of one operation, for both operand forms and every field: its words, and, whenever the
condition passes, that it completes with the result and carry given as functions of operand 1,
operand 2 and `Cin`. -/
def DpRule (op : BitVec 4) (rsi : RsiForm) (rsr : RsrForm) (compare : Bool)
    (result : Word → Word → Bool → Word) (carry : Word → Word → Bool → Option Bool) : Prop :=
  DpWords op rsi rsr ∧
  (∀ (c : Cond) (sBit : Bool) (rn rd : RegNum) (n : Nat) (sh : ShiftType) (rm : RegNum) (s : State),
    s.condPass c = true →
      let a := s.readReg rn.index
      let b := shift s.params.shiftGe32 sh (s.readReg rm.index) n
      ∃ t, exec (rsi c sBit rn rd n sh rm) s = .next t ∧
        DpLeaves s t compare sBit rd (result a b s.cFlag) (carry a b s.cFlag)) ∧
  (∀ (c : Cond) (sBit : Bool) (rn rd rs : RegNum) (g : Bool) (sh : ShiftType) (rm : RegNum) (s : State),
    s.condPass c = true →
      let a := s.readReg rn.index
      let b := shift s.params.shiftGe32 sh (s.readReg rm.index) ((s.readReg rs.index).toNat % 256)
      ∃ t, exec (rsr c sBit rn rd rs g sh rm) s = .next t ∧
        DpLeaves s t compare sBit rd (result a b s.cFlag) (carry a b s.cFlag))

/-- `Cin` as an integer. -/
def cinNat (cin : Bool) : Nat := if cin then 1 else 0

/-- An integer as a 32-bit value, modulo 2^32 (00_scope.md R7). -/
def wrap (z : Int) : Word := BitVec.ofInt 32 z

/-- `(A - B - (1 - Cin)) mod 2^32` (42_data_processing.md R151). -/
def subWithCarry (a b : Word) (cin : Bool) : Word := wrap (a.toNat - b.toNat - (1 - cinNat cin))

/-- `(A + B + Cin) mod 2^32` (42_data_processing.md R151). -/
def addWithCarry (a b : Word) (cin : Bool) : Word := wrap (a.toNat + b.toNat + cinNat cin)

/-! ### Loads and stores -/

/-- The value of a load of the bytes at `a`: little-endian, a byte zero-extended (44_load_store.md
R209, R210). -/
def loadedValue (s : State) (w : Width) (a : Nat) : Nat :=
  match w with
  | .byte => (s.byteAt a).toNat
  | .word =>
    (s.byteAt a).toNat + 2 ^ 8 * (s.byteAt (a + 1)).toNat + 2 ^ 16 * (s.byteAt (a + 2)).toNat +
      2 ^ 24 * (s.byteAt (a + 3)).toNat

/-- The registers a load or store writes beside the loaded one: the base, with the index, in
post-indexed modes only (44_load_store.md R213). -/
def writtenBack (pre : Bool) (rn : RegNum) (index : Word) : List (RegNum × Word) :=
  if pre then [] else [(rn, index)]

/-- What a load leaves. With `Rd = Rn` post-indexed the index stays (44_load_store.md R201). -/
structure LoadLeaves (s t : State) (w : Width) (pre : Bool) (rn rd : RegNum) (addr index : Word) : Prop where
  regs : RegsAre s t (only (writtenBack pre rn index ++ [(rd, BitVec.ofNat 32 (loadedValue s w addr.toNat))]))
  cpsr : t.cpsr = s.cpsr
  memory : SameMemory s t
  result : t.result = .succeeded
  elsewhere : SameElsewhere s t

/-- What a store leaves: the bytes of `x[Rd]`, lowest first, at the accessed address, every other byte
as before. -/
structure StoreLeaves (s t : State) (w : Width) (pre : Bool) (rn rd : RegNum) (addr index : Word) : Prop where
  regs : RegsAre s t (only (writtenBack pre rn index))
  cpsr : t.cpsr = s.cpsr
  stored : ∀ k, k < w.bytes → t.byteAt (addr.toNat + k) = (s.readReg rd.index).extractLsb' (8 * k) 8
  memory : ∀ a, a < addr.toNat ∨ addr.toNat + w.bytes ≤ a → t.byteAt a = s.byteAt a
  result : t.result = .succeeded
  elsewhere : SameElsewhere s t

/-- A load or store instruction `i` with these fields and offset, whose condition passes. The index is
the base plus or minus the offset modulo 2^32, by `U`, and the accessed address is the index or the
base, by `P` (44_load_store.md R200, R203). In range the instruction completes with what `leaves` says
of the accessed address and the index; out of range it fails and changes nothing (R208, R215). -/
def AccessRule (w : Width) (pre u : Bool) (rn : RegNum) (offset : Word) (i : Instr) (s : State)
    (leaves : State → Word → Word → Prop) : Prop :=
  let base := s.readReg rn.index
  let index := indexValue u base offset
  let addr := accessAddr pre base index
  (index = if u then wrap (base.toNat + offset.toNat) else wrap (base.toNat - offset.toNat)) ∧
  (addr = if pre then index else base) ∧
  (s.initialized = true ∧ addr.toNat + w.bytes ≤ s.memSize → ∃ t, exec i s = .next t ∧ leaves t addr index) ∧
  (s.memSize < addr.toNat + w.bytes → exec i s = .next { s with result := .failed .accessOutOfRange })

abbrev ImmForm := Cond → Bool → Bool → RegNum → RegNum → Nat → Instr
abbrev RegForm := Cond → Bool → Bool → RegNum → RegNum → BitVec 8 → RegNum → Instr

/-- An instruction of format LS_IMM with every field. -/
def ImmRule (i : ImmForm) (w : Width) (pre : Bool)
    (leaves : State → State → Width → Bool → RegNum → RegNum → Word → Word → Prop) : Prop :=
  ∀ (c : Cond) (u g : Bool) (rn rd : RegNum) (n : Nat) (s : State), s.condPass c = true → Memory.wf s.mem = true →
    AccessRule w pre u rn (BitVec.ofNat 32 n) (i c u g rn rd n) s (fun t => leaves s t w pre rn rd)

/-- An instruction of format LS_REG with every field. -/
def RegRule (i : RegForm) (w : Width) (pre : Bool)
    (leaves : State → State → Width → Bool → RegNum → RegNum → Word → Word → Prop) : Prop :=
  ∀ (c : Cond) (u g : Bool) (rn rd : RegNum) (h : BitVec 8) (rm : RegNum) (s : State),
    s.condPass c = true → Memory.wf s.mem = true →
    AccessRule w pre u rn (s.readReg rm.index) (i c u g rn rd h rm) s (fun t => leaves s t w pre rn rd)

/-- The words with bits `L` and `B` decode to these six constructors, by `iw[27:25]` and `P`, with the
fields of 30_encoding.md R86 and R87. -/
def LsWords (l b : Bool) (immPre immPost : ImmForm) (regPre regPost aliasPre aliasPost : RegForm) : Prop :=
  ∀ w : Word, w.getLsbD 20 = l → w.getLsbD 22 = b →
    let imm (i : ImmForm) := i (Cond.ofBits (w.extractLsb' 28 4)) (w.getLsbD 23) (w.getLsbD 21) (regField w 16)
      (regField w 12) (w.extractLsb' 0 12).toNat
    let reg (i : RegForm) := i (Cond.ofBits (w.extractLsb' 28 4)) (w.getLsbD 23) (w.getLsbD 21) (regField w 16)
      (regField w 12) (w.extractLsb' 4 8) (regField w 0)
    (w.extractLsb' 25 3 = 0b010#3 → decode w = if w.getLsbD 24 then imm immPre else imm immPost) ∧
    (w.extractLsb' 25 3 = 0b011#3 → decode w = if w.getLsbD 24 then reg regPre else reg regPost) ∧
    (w.extractLsb' 25 3 = 0b001#3 → decode w = if w.getLsbD 24 then reg aliasPre else reg aliasPost)

/-- The rule of one load/store instruction in all its address modes. -/
def LsRule (l b : Bool) (w : Width) (immPre immPost : ImmForm) (regPre regPost aliasPre aliasPost : RegForm)
    (leaves : State → State → Width → Bool → RegNum → RegNum → Word → Word → Prop) : Prop :=
  LsWords l b immPre immPost regPre regPost aliasPre aliasPost ∧
  ImmRule immPre w true leaves ∧ ImmRule immPost w false leaves ∧
  RegRule regPre w true leaves ∧ RegRule regPost w false leaves ∧
  RegRule aliasPre w true leaves ∧ RegRule aliasPost w false leaves

/-! ### Branches -/

/-- What a branch leaves. -/
structure BranchLeaves (s t : State) (written : List (RegNum × Word)) : Prop where
  regs : RegsAre s t (only written)
  cpsr : t.cpsr = s.cpsr
  memory : SameMemory s t
  result : t.result = .succeeded
  elsewhere : SameElsewhere s t

/-- The target `(PC + 8 + offset) mod 2^32`, with `offset` the signed word offset times 4. -/
def branchTarget (s : State) (imm24 : BitVec 24) : Word := wrap ((s.readReg 15).toNat + 8 + 4 * imm24.toInt)

/-- The rule of one branch instruction: its words, its effect, and that a false condition changes
nothing and succeeds. -/
def BranchRule (l : Bool) (i : Cond → Bool → BitVec 24 → Instr) (written : State → BitVec 24 → List (RegNum × Word)) :
    Prop :=
  (∀ w : Word, w.extractLsb' 26 2 = 0b10#2 → w.getLsbD 24 = l →
    decode w = i (Cond.ofBits (w.extractLsb' 28 4)) (w.getLsbD 25) (w.extractLsb' 0 24)) ∧
  (∀ (c : Cond) (g : Bool) (k : BitVec 24) (s : State), s.condPass c = true →
    ∃ t, exec (i c g k) s = .next t ∧ BranchLeaves s t (written s k)) ∧
  (∀ (c : Cond) (g : Bool) (k : BitVec 24) (s : State), s.condPass c = false →
    exec (i c g k) s = .next { s with result := .succeeded })

/-! ### Steps -/

/-- The host presents the word `w` next, on an initialized engine with no batch in progress. -/
structure Presents (s : State) (w : Word) (rest : List Transaction) : Prop where
  initialized : s.initialized = true
  batch : s.batch = none
  requests : s.requests = .executeInstruction w :: rest

/-- What a step of an instruction word starts from: the word taken, the reply cleared, the counter
advanced (40_decode_condition.md R100, R110). -/
def begun (s : State) (rest : List Transaction) : State :=
  { s with requests := rest, reply := none, icount := s.icount + 1 }

/-- The word the next step executes, if it executes one: the next of the batch in progress, or the one
the oldest transaction brings. -/
def nextWord (s : State) : Option Word :=
  match s.batch, s.requests with
  | some b, _ => b.words.head?
  | none, .executeInstruction w :: _ => some w
  | none, .executeInstructions ws :: _ => ws.head?
  | none, _ => none

/-- The next step is an `init` whose allocation succeeds. -/
def succeedsAsInit (s : State) : Prop := s.batch = none ∧ ∃ size rest, s.requests = .init size true :: rest

/-- `executeInstructions` as the spec's loop (50_host_interface.md R244), on the block's own state: the
count, and the state the loop leaves. -/
def batchLoop (ws : List Word) (s : State) : Nat × State :=
  match ws with
  | [] => (0, s)
  | w :: rest =>
    match stepWord w s with
    | .next t => if t.result = .succeeded then ((batchLoop rest t).1 + 1, (batchLoop rest t).2) else (0, t)
    | _ => (0, s)

/-- The shift of a 32-bit value by 0 to 255 in the mathematical sense of its name, on integers
(41_barrel_shifter.md R133 to R138). -/
def mathematicalShift (t : ShiftType) (v : Word) (n : Nat) : Word :=
  match t with
  | .lsl => BitVec.ofNat 32 (v.toNat * 2 ^ n)
  | .lsr => BitVec.ofNat 32 (v.toNat / 2 ^ n)
  | .asr => wrap (v.toInt / 2 ^ n)
  | .ror => BitVec.ofNat 32 (v.toNat / 2 ^ (n % 32) + v.toNat % 2 ^ (n % 32) * 2 ^ (32 - n % 32))

/-- Words that agree in every bit outside `ignored`. -/
abbrev AgreeOutside (ignored w v : Word) : Prop := w &&& ~~~ignored = v &&& ~~~ignored

/-- The bits a word's execution does not depend on: for the words with `w &&& mask = pattern`, the bits
of `ignored` (30_encoding.md R88, and R94 for the illegal class). -/
def ignoredBits : List (Word × Word × Word) :=
  [(0x0E000010, 0x00000010, 0x00000080),   -- DP_RSR: bit 7
   (0x0F800000, 0x01000000, 0x0010F000),   -- TST, TEQ, CMP, CMN: S and Rd
   (0x0FA00000, 0x01A00000, 0x000F0000),   -- MOV, MVN: Rn
   (0x0C000000, 0x08000000, 0x02000000),   -- BR: bit 25
   (0x0E000000, 0x04000000, 0x00200000),   -- LS_IMM: bit 21
   (0x0E000000, 0x06000000, 0x00200FF0),   -- LS_REG: bits 21 and 11:4
   (0x0E000000, 0x02000000, 0x00200FF0),   -- LS_REG with 001: bits 21 and 11:4
   (0x0C000000, 0x0C000000, 0x03FFFFFF)]   -- the illegal class

/-- The instructions that can write the PC (10_state.md R28). -/
def mayWritePc (i : Instr) : Prop :=
  match i.toForm with
  | .dpRsi op _ _ _ rd _ _ _ => op.isCompare = false ∧ rd = 15
  | .dpRsr op _ _ _ rd _ _ _ _ => op.isCompare = false ∧ rd = 15
  | .lsImm op pre _ _ _ rn rd _ => (op.lBit = true ∧ rd = 15) ∨ (pre = false ∧ rn = 15)
  | .lsReg op _ pre _ _ _ rn rd _ _ => (op.lBit = true ∧ rd = 15) ∨ (pre = false ∧ rn = 15)
  | .br _ _ _ _ => True
  | .none _ _ => False

/-- The instructions that can write the flags (10_state.md R32). -/
def mayWriteFlags (i : Instr) : Prop :=
  match i.toForm with
  | .dpRsi op _ sBit _ _ _ _ _ => sBit = true ∨ op.isCompare = true
  | .dpRsr op _ sBit _ _ _ _ _ _ => sBit = true ∨ op.isCompare = true
  | .lsImm .. => False
  | .lsReg .. => False
  | .br .. => False
  | .none .. => False

/-- The store instructions (44_load_store.md R211, R212). -/
def isStore (i : Instr) : Prop :=
  match i.toForm with
  | .lsImm op .. => op.lBit = false
  | .lsReg op .. => op.lBit = false
  | .dpRsi .. => False
  | .dpRsr .. => False
  | .br .. => False
  | .none .. => False

/-- The load/store instructions (44_load_store.md R209 to R212). -/
def isLoadStore (i : Instr) : Prop :=
  match i.toForm with
  | .lsImm .. => True
  | .lsReg .. => True
  | .dpRsi .. => False
  | .dpRsr .. => False
  | .br .. => False
  | .none .. => False

/-- The illegal class (30_encoding.md R94). -/
def isIllegal (i : Instr) : Prop :=
  match i.toForm with
  | .none .. => True
  | .dpRsi .. => False
  | .dpRsr .. => False
  | .lsImm .. => False
  | .lsReg .. => False
  | .br .. => False

end Sys2Proof.Claims

open Sys2Proof Sys2Proof.Machine Sys2Proof.Claims

/-- For every well-formed instruction, of every one of the 59 constructors and with every field at every
value, decode of encode is the instruction.
(Rests on 30_encoding.md sections 2 and 3 (rules R82 to R92).) -/
def Obligations.DecodeOfEncodeIsTheInstruction : Prop :=
  ∀ i : Instr, WellFormed i → decode (encode i) = i

/-- For every 32-bit word, the decoded instruction is well formed and its encoding is the word again, so
that decoding loses no bit and is total.
(Rests on 30_encoding.md sections 2 to 4 (rules R80 to R93).) -/
def Obligations.EncodeOfDecodeIsTheWord : Prop :=
  ∀ w : Word, WellFormed (decode w) ∧ encode (decode w) = w

/-- For every 32-bit word there is exactly one row of the opcode table with word AND mask equal to
match, and its mnemonic and format are those of the decoded instruction.
(Rests on 30_encoding.md section 4 (rule R93), spec/opcode_table.json.) -/
def Obligations.EveryWordBelongsToExactlyOneRow : Prop :=
  ∀ w : Word, ∃ r ∈ opcodeTable, r.holds w = true ∧ (r.mnemonic, r.format) = (decode w).rowName ∧
    ∀ q ∈ opcodeTable, q.holds w = true → q = r

/-- The words of the spec scenarios 1, 2, 4, 5 and 6, a word of each shift type (Sh2 to Sh5), a
register-shifted word, a branch and an illegal word decode to the constructors and fields the spec
gives them.
(Rests on 95_test_vectors.md sections 1.1 and 2, 44_load_store.md section 4 (rule R216).) -/
def Obligations.SpecWordsDecodeAsTheSpecReadsThem : Prop :=
  decode 0xE3A0100F#32 = .strAlias001Pre .al true true 0 1 0x00#8 15 ∧
  decode 0xE0824003#32 = .addRsi .al false 2 4 0 .lsl 3 ∧
  decode 0xEB000000#32 = .bl .al true 0#24 ∧
  decode 0xE5810000#32 = .strImmPre .al true false 1 0 0 ∧
  decode 0xE5D10000#32 = .ldrbImmPre .al true false 1 0 0 ∧
  decode 0xE1A00081#32 = .movRsi .al false 0 0 1 .lsl 1 ∧
  decode 0xE1A000A1#32 = .movRsi .al false 0 0 1 .lsr 1 ∧
  decode 0xE1A000C1#32 = .movRsi .al false 0 0 1 .asr 1 ∧
  decode 0xE1A000E1#32 = .movRsi .al false 0 0 1 .ror 1 ∧
  decode 0xE1A00471#32 = .movRsr .al false 0 0 4 false .ror 1 ∧
  decode 0xEAFFFFFE#32 = .b .al true 0xFFFFFE#24 ∧
  decode 0xEF000000#32 = .illegal .al 0x3000000#26

/-- For each class of words with ignored bits (DP_RSR bit 7; S and Rd of the compares; Rn of MOV and
MVN; branch bit 25; load/store bit 21 and register-form bits 11:4; the low 26 bits of the illegal
class), two words that agree outside the ignored bits have the same execution in every state. That
unnamed bits are ignored is the spec's own decision D13 (log entry 17).
(Rests on 30_encoding.md section 2 (rule R88), 30_encoding.md section 5 (rule R94),
92_eei_decisions.md D13.) -/
def Obligations.DontCareBitsHaveNoEffect : Prop :=
  ∀ mask pattern ignored : Word, (mask, pattern, ignored) ∈ ignoredBits → ∀ w v : Word, w &&& mask = pattern →
    AgreeOutside ignored w v → ∀ s : State, exec (decode w) s = exec (decode v) s

/-- For every word with bits 31:28 all ones and every state, executing it is executing the word with bit
28 cleared.
(Rule R95.) -/
def Obligations.ConditionFifteenExecutesAsAlways : Prop :=
  ∀ (w : Word) (s : State), w.extractLsb' 28 4 = 0xF#4 → exec (decode w) s = exec (decode (w &&& 0xEFFFFFFF#32)) s

/-- In the reading DECODE_001 = LoadStore, which decode and exec are (the spec's decision D18, log entry
6; a step with DECODE_001 = DataProcImm does not run these words by exec, log entry 19): for every
word with bits 27:25 equal to 001 and every state, executing it is executing the word with bit 26
set, a load or store with a register offset.
(Rests on 44_load_store.md section 4 (rule R216), 30_encoding.md section 2 (rule R87),
92_eei_decisions.md D18.) -/
def Obligations.AliasWordsExecuteAsRegisterOffsetWords : Prop :=
  ∀ (w : Word) (s : State), w.extractLsb' 25 3 = 0b001#3 → exec (decode w) s = exec (decode (w ||| 0x04000000#32)) s

/-- When the host presents a word on an initialized engine with no batch in progress, in the normative
DECODE_001, the step is exec of the decoded instruction in the state with the word taken, the reply
cleared and the counter advanced by one; the reply is then the result bit. The step from
withFetchWord runs in the same way the instruction that decodeTableWord reads, any batch in progress
dropped; that a word is presented by withFetchWord, and drops a batch, is the model's own choice
(log entry 4), which R100 and R239 do not say.
(Rests on 40_decode_condition.md section 1 (rule R100), 50_host_interface.md section 5 (rule R239).) -/
def Obligations.StepRunsThePresentedInstruction : Prop :=
  (∀ (s : State) (w : Word) (rest : List Transaction), Presents s w rest → s.params.decode001 = .loadStore →
    step s = mapNext (fun t => { t with reply := some (.ok t.result.ok) }) (exec (decode w) (begun s rest))) ∧
  (∀ (s : State) (nbits w : Nat) (i : Instr), s.initialized = true → s.params.decode001 = .loadStore →
    decodeTableWord nbits w = some i →
    step (s.withFetchWord nbits w) =
      mapNext (fun t => { t with reply := some (.ok t.result.ok) })
        (exec i { s with batch := none, reply := none, icount := s.icount + 1 }))

/-- For every state, with N, Z, C, V the CPSR bits 31, 30, 29, 28, each of the sixteen condition
encodings passes exactly when its predicate of the table holds; 0xE and 0xF always pass.
(Rule R104.) -/
def Obligations.ConditionTableHolds : Prop :=
  ∀ s : State,
    let n := s.cpsr.getLsbD 31
    let z := s.cpsr.getLsbD 30
    let c := s.cpsr.getLsbD 29
    let v := s.cpsr.getLsbD 28
    let pass (k : BitVec 4) := s.condPass (Cond.ofBits k) = true
    (pass 0x0#4 ↔ z = true) ∧ (pass 0x1#4 ↔ z = false) ∧ (pass 0x2#4 ↔ c = true) ∧ (pass 0x3#4 ↔ c = false) ∧
    (pass 0x4#4 ↔ n = true) ∧ (pass 0x5#4 ↔ n = false) ∧ (pass 0x6#4 ↔ v = true) ∧ (pass 0x7#4 ↔ v = false) ∧
    (pass 0x8#4 ↔ c = true ∧ z = false) ∧ (pass 0x9#4 ↔ c = false ∨ z = true) ∧
    (pass 0xA#4 ↔ n = v) ∧ (pass 0xB#4 ↔ n ≠ v) ∧ (pass 0xC#4 ↔ z = false ∧ n = v) ∧
    (pass 0xD#4 ↔ z = true ∨ n ≠ v) ∧ pass 0xE#4 ∧ pass 0xF#4

/-- For every word presented on an initialized engine with the condition tested first, in either
DECODE_001, whose condition predicate is false: the step succeeds, the counter advances, the word is
taken and answered, and nothing else changes, whatever the other bits of the word are; that this
holds of illegal words too is the spec's decision D6 (log entry 15).
(Rests on 40_decode_condition.md section 1 (rule R102), 92_eei_decisions.md D6.) -/
def Obligations.SkippedWordChangesOnlyTheCounter : Prop :=
  ∀ (s : State) (w : Word) (rest : List Transaction), Presents s w rest → s.params.illegalBeforeCond = false →
    s.condPass (Cond.ofBits (w.extractLsb' 28 4)) = false →
    step s = .next { s with
      icount := s.icount + 1, result := .succeeded, requests := rest, reply := some (.ok true) }

/-- The words with bits 27:26 equal to 11 decode to the illegal instruction; when its condition passes,
executing it answers the state with result failed, cause illegal instruction, and no other change;
presented as a word on an initialized engine, the step returns 0 having changed only the counter,
the taken word and the answer. Under the non-normative parameter ILLEGAL_BEFORE_COND = true (the
spec's decision D6, log entries 6 and 15) the same holds whatever the condition.
(Rests on 40_decode_condition.md section 3 (rule R108), 30_encoding.md section 5 (rule R94),
00_scope.md section 3 (rule R6), 92_eei_decisions.md D6.) -/
def Obligations.IllegalInstructionFailsAndChangesNothing : Prop :=
  (∀ w : Word, w.extractLsb' 26 2 = 0b11#2 → decode w = .illegal (Cond.ofBits (w.extractLsb' 28 4)) (w.extractLsb' 0 26)) ∧
  (∀ (c : Cond) (g : BitVec 26) (s : State), s.condPass c = true ∨ s.params.illegalBeforeCond = true →
    exec (.illegal c g) s = .next { s with result := .failed .illegalInstruction }) ∧
  (∀ (s : State) (w : Word) (rest : List Transaction), Presents s w rest → w.extractLsb' 26 2 = 0b11#2 →
    s.condPass (Cond.ofBits (w.extractLsb' 28 4)) = true ∨ s.params.illegalBeforeCond = true →
    step s = .next { s with
      icount := s.icount + 1, result := .failed .illegalInstruction, requests := rest, reply := some (.ok false) })

/-- For every type, value and amount 0 to 255: amount 0 gives the value unchanged for every type; an
amount below 32, or any amount when SHIFT_GE32 has its normative value, gives the value multiplied
by 2^n modulo 2^32 (LSL), divided by 2^n rounding down (LSR), the signed value divided by 2^n
rounding down (ASR), or rotated right by n modulo 32 (ROR). For amounts from 32 up that is 0 for LSL
and LSR and 32 copies of bit 31 for ASR; those values are the spec's decision D9 (log entry 6).
(Rests on 41_barrel_shifter.md section 2 (rules R133 to R138), 92_eei_decisions.md D9.) -/
def Obligations.ShiftIsTheMathematicalShift : Prop :=
  ∀ (g : ShiftGe32) (t : ShiftType) (v : Word) (n : Nat), n ≤ 255 → n < 32 ∨ g = .mathematical →
    shift g t v n = mathematicalShift t v n ∧ shift g t v 0 = v ∧
    (32 ≤ n → shift g .lsl v n = 0 ∧ shift g .lsr v n = 0 ∧
      shift g .asr v n = if v.getLsbD 31 then 0xFFFFFFFF#32 else 0)

/-- For all operands: ADD and CMN give the true carry; SUB, RSB and CMP give no-borrow; ADC gives the
true carry except that B = 0xFFFFFFFF with Cin = 1 gives 0; SBC with d = B + (1 - Cin) gives 1
exactly when 1 <= d <= A; RSC gives 1 exactly when 1 <= d <= B with d = A + (1 - Cin). The spec
derives this from the formulas of R151.
(Rests on 42_data_processing.md section 3 (rules R151, R173).) -/
def Obligations.CarryFormulasAgainstTrueCarryAndBorrow : Prop :=
  ∀ (a b : Word) (cin : Bool),
    (alu .add a b cin).carry = some (decide (2 ^ 32 ≤ a.toNat + b.toNat)) ∧
    (alu .cmn a b cin).carry = some (decide (2 ^ 32 ≤ a.toNat + b.toNat)) ∧
    (alu .sub a b cin).carry = some (decide (b.toNat ≤ a.toNat)) ∧
    (alu .cmp a b cin).carry = some (decide (b.toNat ≤ a.toNat)) ∧
    (alu .rsb a b cin).carry = some (decide (a.toNat ≤ b.toNat)) ∧
    (alu .adc a b cin).carry =
      some (decide (2 ^ 32 ≤ a.toNat + b.toNat + cinNat cin ∧ ¬ (b = 0xFFFFFFFF#32 ∧ cin = true))) ∧
    (alu .sbc a b cin).carry =
      some (decide (1 ≤ b.toNat + (1 - cinNat cin) ∧ b.toNat + (1 - cinNat cin) ≤ a.toNat)) ∧
    (alu .rsc a b cin).carry =
      some (decide (1 ≤ a.toNat + (1 - cinNat cin) ∧ a.toNat + (1 - cinNat cin) ≤ b.toNat))

/-- The words with iw[27:25] = 000 and op = 0x0 decode to AND in its two operand forms. For every field
and every state whose condition passes, AND answers a next state in which Rd (R15 with its shadow
too) holds the bitwise AND of its operands; N and Z are written only when S = 1, V and CPSR bits
27:0 never; every other register, all of memory and the rest of the state are unchanged and the step
succeeds.
(Rule R154.) -/
def Obligations.AndWritesTheConjunction : Prop :=
  DpRule 0x0#4 .andRsi .andRsr false
    (fun a b _ => a &&& b)
    (fun _ _ _ => none)

/-- The words with iw[27:25] = 000 and op = 0x1 decode to EOR in its two operand forms. For every field
and every state whose condition passes, EOR answers a next state in which Rd (R15 with its shadow
too) holds the bitwise exclusive OR of its operands; N and Z are written only when S = 1, V and CPSR
bits 27:0 never; every other register, all of memory and the rest of the state are unchanged and the
step succeeds.
(Rule R155.) -/
def Obligations.EorWritesTheExclusiveOr : Prop :=
  DpRule 0x1#4 .eorRsi .eorRsr false
    (fun a b _ => a ^^^ b)
    (fun _ _ _ => none)

/-- The words with iw[27:25] = 000 and op = 0x2 decode to SUB in its two operand forms. For every field
and every state whose condition passes, SUB answers a next state in which Rd (R15 with its shadow
too) holds operand 1 minus operand 2, with C = 1 exactly when no borrow occurs; N, Z and C are
written only when S = 1, V and CPSR bits 27:0 never; every other register, all of memory and the
rest of the state are unchanged and the step succeeds.
(Rule R156.) -/
def Obligations.SubWritesTheDifference : Prop :=
  DpRule 0x2#4 .subRsi .subRsr false
    (fun a b _ => wrap (a.toNat - b.toNat))
    (fun a b _ => some (decide (b.toNat ≤ a.toNat)))

/-- The words with iw[27:25] = 000 and op = 0x3 decode to RSB in its two operand forms. For every field
and every state whose condition passes, RSB answers a next state in which Rd (R15 with its shadow
too) holds operand 2 minus operand 1, with C = 1 exactly when no borrow occurs; N, Z and C are
written only when S = 1, V and CPSR bits 27:0 never; every other register, all of memory and the
rest of the state are unchanged and the step succeeds.
(Rule R157.) -/
def Obligations.RsbWritesTheReversedDifference : Prop :=
  DpRule 0x3#4 .rsbRsi .rsbRsr false
    (fun a b _ => wrap (b.toNat - a.toNat))
    (fun a b _ => some (decide (a.toNat ≤ b.toNat)))

/-- The words with iw[27:25] = 000 and op = 0x4 decode to ADD in its two operand forms. For every field
and every state whose condition passes, ADD answers a next state in which Rd (R15 with its shadow
too) holds the sum of its operands, with C the true carry; N, Z and C are written only when S = 1, V
and CPSR bits 27:0 never; every other register, all of memory and the rest of the state are
unchanged and the step succeeds.
(Rule R158.) -/
def Obligations.AddWritesTheSum : Prop :=
  DpRule 0x4#4 .addRsi .addRsr false
    (fun a b _ => wrap (a.toNat + b.toNat))
    (fun a b _ => some (decide (2 ^ 32 ≤ a.toNat + b.toNat)))

/-- The words with iw[27:25] = 000 and op = 0x5 decode to ADC in its two operand forms. For every field
and every state whose condition passes, ADC answers a next state in which Rd (R15 with its shadow
too) holds the sum of its operands and Cin, with C set when the result is below operand 1; N, Z and
C are written only when S = 1, V and CPSR bits 27:0 never; every other register, all of memory and
the rest of the state are unchanged and the step succeeds.
(Rule R159.) -/
def Obligations.AdcWritesTheSumWithCarry : Prop :=
  DpRule 0x5#4 .adcRsi .adcRsr false
    (fun a b cin => addWithCarry a b cin)
    (fun a b cin => some (decide ((addWithCarry a b cin).toNat < a.toNat)))

/-- The words with iw[27:25] = 000 and op = 0x6 decode to SBC in its two operand forms. For every field
and every state whose condition passes, SBC answers a next state in which Rd (R15 with its shadow
too) holds operand 1 minus operand 2 minus (1 - Cin), with C set when the result is below operand 1;
N, Z and C are written only when S = 1, V and CPSR bits 27:0 never; every other register, all of
memory and the rest of the state are unchanged and the step succeeds.
(Rule R160.) -/
def Obligations.SbcWritesTheDifferenceWithCarry : Prop :=
  DpRule 0x6#4 .sbcRsi .sbcRsr false
    (fun a b cin => subWithCarry a b cin)
    (fun a b cin => some (decide ((subWithCarry a b cin).toNat < a.toNat)))

/-- The words with iw[27:25] = 000 and op = 0x7 decode to RSC in its two operand forms. For every field
and every state whose condition passes, RSC answers a next state in which Rd (R15 with its shadow
too) holds operand 2 minus operand 1 minus (1 - Cin), with C set when the result is below operand 2;
N, Z and C are written only when S = 1, V and CPSR bits 27:0 never; every other register, all of
memory and the rest of the state are unchanged and the step succeeds.
(Rule R161.) -/
def Obligations.RscWritesTheReversedDifferenceWithCarry : Prop :=
  DpRule 0x7#4 .rscRsi .rscRsr false
    (fun a b cin => subWithCarry b a cin)
    (fun a b cin => some (decide ((subWithCarry b a cin).toNat < b.toNat)))

/-- The words with iw[27:25] = 000 and op = 0x8 decode to TST in its two operand forms. For every field
and every state whose condition passes, TST answers a next state that has no register, and N and Z
from the bitwise AND, whatever S is; N and Z are written always, V and CPSR bits 27:0 never; every
other register, all of memory and the rest of the state are unchanged and the step succeeds.
(Rule R162.) -/
def Obligations.TstSetsFlagsOfTheConjunction : Prop :=
  DpRule 0x8#4 .tstRsi .tstRsr true
    (fun a b _ => a &&& b)
    (fun _ _ _ => none)

/-- The words with iw[27:25] = 000 and op = 0x9 decode to TEQ in its two operand forms. For every field
and every state whose condition passes, TEQ answers a next state that has no register, and N and Z
from the bitwise exclusive OR, whatever S is; N and Z are written always, V and CPSR bits 27:0
never; every other register, all of memory and the rest of the state are unchanged and the step
succeeds.
(Rule R163.) -/
def Obligations.TeqSetsFlagsOfTheExclusiveOr : Prop :=
  DpRule 0x9#4 .teqRsi .teqRsr true
    (fun a b _ => a ^^^ b)
    (fun _ _ _ => none)

/-- The words with iw[27:25] = 000 and op = 0xA decode to CMP in its two operand forms. For every field
and every state whose condition passes, CMP answers a next state that has no register, and N, Z and
C from operand 1 minus operand 2, whatever S is; N, Z and C are written always, V and CPSR bits 27:0
never; every other register, all of memory and the rest of the state are unchanged and the step
succeeds.
(Rule R164.) -/
def Obligations.CmpSetsFlagsOfTheDifference : Prop :=
  DpRule 0xA#4 .cmpRsi .cmpRsr true
    (fun a b _ => wrap (a.toNat - b.toNat))
    (fun a b _ => some (decide (b.toNat ≤ a.toNat)))

/-- The words with iw[27:25] = 000 and op = 0xB decode to CMN in its two operand forms. For every field
and every state whose condition passes, CMN answers a next state that has no register, and N, Z and
C from the sum, whatever S is; N, Z and C are written always, V and CPSR bits 27:0 never; every
other register, all of memory and the rest of the state are unchanged and the step succeeds.
(Rule R165.) -/
def Obligations.CmnSetsFlagsOfTheSum : Prop :=
  DpRule 0xB#4 .cmnRsi .cmnRsr true
    (fun a b _ => wrap (a.toNat + b.toNat))
    (fun a b _ => some (decide (2 ^ 32 ≤ a.toNat + b.toNat)))

/-- The words with iw[27:25] = 000 and op = 0xC decode to ORR in its two operand forms. For every field
and every state whose condition passes, ORR answers a next state in which Rd (R15 with its shadow
too) holds the bitwise OR of its operands; N and Z are written only when S = 1, V and CPSR bits 27:0
never; every other register, all of memory and the rest of the state are unchanged and the step
succeeds.
(Rule R166.) -/
def Obligations.OrrWritesTheDisjunction : Prop :=
  DpRule 0xC#4 .orrRsi .orrRsr false
    (fun a b _ => a ||| b)
    (fun _ _ _ => none)

/-- The words with iw[27:25] = 000 and op = 0xD decode to MOV in its two operand forms. For every field
and every state whose condition passes, MOV answers a next state in which Rd (R15 with its shadow
too) holds operand 2; N and Z are written only when S = 1, V and CPSR bits 27:0 never; every other
register, all of memory and the rest of the state are unchanged and the step succeeds.
(Rule R167.) -/
def Obligations.MovWritesOperandTwo : Prop :=
  DpRule 0xD#4 .movRsi .movRsr false
    (fun _ b _ => b)
    (fun _ _ _ => none)

/-- The words with iw[27:25] = 000 and op = 0xE decode to BIC in its two operand forms. For every field
and every state whose condition passes, BIC answers a next state in which Rd (R15 with its shadow
too) holds operand 1 with the bits of operand 2 cleared; N and Z are written only when S = 1, V and
CPSR bits 27:0 never; every other register, all of memory and the rest of the state are unchanged
and the step succeeds.
(Rule R168.) -/
def Obligations.BicWritesTheBitClear : Prop :=
  DpRule 0xE#4 .bicRsi .bicRsr false
    (fun a b _ => a &&& ~~~b)
    (fun _ _ _ => none)

/-- The words with iw[27:25] = 000 and op = 0xF decode to MVN in its two operand forms. For every field
and every state whose condition passes, MVN answers a next state in which Rd (R15 with its shadow
too) holds the complement of operand 2; N and Z are written only when S = 1, V and CPSR bits 27:0
never; every other register, all of memory and the rest of the state are unchanged and the step
succeeds.
(Rule R169.) -/
def Obligations.MvnWritesTheComplement : Prop :=
  DpRule 0xF#4 .mvnRsi .mvnRsr false
    (fun _ b _ => ~~~b)
    (fun _ _ _ => none)

/-- The words with L = 1, B = 0 of the load/store family decode to LDR in its six forms (immediate or
register offset, pre- or post-indexed, and the 001 words). For every field and every state with a
canonical memory whose condition passes: the index is the base plus (U = 1) or minus (U = 0) the
offset modulo 2^32, and the accessed address is the index when pre-indexed and the base when post-
indexed; when the access is in range on an initialized engine it answers a next state in which it
loads the little-endian word at its address into Rd, post-indexed modes alone write the base back
with the index, and every other register, byte and field and the CPSR are unchanged; when address
plus width exceeds MEM_SIZE it fails with cause access out of range and changes nothing else. (The
rule follows the spec's decisions D7 and D10 to D12, log entries 14 and 16.)
(Rule R209.) -/
def Obligations.LdrLoadsTheWord : Prop :=
  LsRule true false .word .ldrImmPre .ldrImmPost .ldrRegPre .ldrRegPost .ldrAlias001Pre
    .ldrAlias001Post LoadLeaves

/-- The words with L = 1, B = 1 of the load/store family decode to LDRB in its six forms (immediate or
register offset, pre- or post-indexed, and the 001 words). For every field and every state with a
canonical memory whose condition passes: the index is the base plus (U = 1) or minus (U = 0) the
offset modulo 2^32, and the accessed address is the index when pre-indexed and the base when post-
indexed; when the access is in range on an initialized engine it answers a next state in which it
loads the byte at its address, zero-extended, into Rd, post-indexed modes alone write the base back
with the index, and every other register, byte and field and the CPSR are unchanged; when address
plus width exceeds MEM_SIZE it fails with cause access out of range and changes nothing else. (The
rule follows the spec's decisions D7 and D10 to D12, log entries 14 and 16.)
(Rule R210.) -/
def Obligations.LdrbLoadsTheByte : Prop :=
  LsRule true true .byte .ldrbImmPre .ldrbImmPost .ldrbRegPre .ldrbRegPost .ldrbAlias001Pre
    .ldrbAlias001Post LoadLeaves

/-- The words with L = 0, B = 0 of the load/store family decode to STR in its six forms (immediate or
register offset, pre- or post-indexed, and the 001 words). For every field and every state with a
canonical memory whose condition passes: the index is the base plus (U = 1) or minus (U = 0) the
offset modulo 2^32, and the accessed address is the index when pre-indexed and the base when post-
indexed; when the access is in range on an initialized engine it answers a next state in which it
stores the four bytes of Rd little-endian at its address, post-indexed modes alone write the base
back with the index, and every other register, byte and field and the CPSR are unchanged; when
address plus width exceeds MEM_SIZE it fails with cause access out of range and changes nothing
else. (The rule follows the spec's decisions D7 and D10 to D12, log entries 14 and 16.)
(Rule R211.) -/
def Obligations.StrStoresTheWord : Prop :=
  LsRule false false .word .strImmPre .strImmPost .strRegPre .strRegPost .strAlias001Pre
    .strAlias001Post StoreLeaves

/-- The words with L = 0, B = 1 of the load/store family decode to STRB in its six forms (immediate or
register offset, pre- or post-indexed, and the 001 words). For every field and every state with a
canonical memory whose condition passes: the index is the base plus (U = 1) or minus (U = 0) the
offset modulo 2^32, and the accessed address is the index when pre-indexed and the base when post-
indexed; when the access is in range on an initialized engine it answers a next state in which it
stores the low byte of Rd at its address, post-indexed modes alone write the base back with the
index, and every other register, byte and field and the CPSR are unchanged; when address plus width
exceeds MEM_SIZE it fails with cause access out of range and changes nothing else. (The rule follows
the spec's decisions D7 and D10 to D12, log entries 14 and 16.)
(Rule R212.) -/
def Obligations.StrbStoresTheByte : Prop :=
  LsRule false true .byte .strbImmPre .strbImmPost .strbRegPre .strbRegPost .strbAlias001Pre
    .strbAlias001Post StoreLeaves

/-- The words with bits 27:26 equal to 10 and L = 0 decode to B, whatever bit 25 is. When the condition
passes B answers a next state with PC (and its shadow) at (PC + 8 + offset) mod 2^32 and nothing
else changed; a false condition changes nothing and succeeds.
(Rule R194.) -/
def Obligations.BranchMovesThePc : Prop :=
  BranchRule false .b (fun s k => [(15, branchTarget s k)])

/-- The words with bits 27:26 equal to 10 and L = 1 decode to BL, whatever bit 25 is. When the condition
passes BL answers a next state with LR (and its shadow) at PC + 4, PC (and its shadow) at (PC + 8 +
offset) mod 2^32, both from the old PC and modulo 2^32, and nothing else changed; with a false
condition nothing changes.
(Rule R195.) -/
def Obligations.BranchWithLinkSetsLrAndMovesThePc : Prop :=
  BranchRule true .bl (fun s k => [(14, wrap ((s.readReg 15).toNat + 4)), (15, branchTarget s k)])

/-- From every state in which the PC, SP and LR shadow fields equal x[15], x[13] and x[14], every step
that answers a next state, of an instruction or a host transaction, gives a state in which they are
equal again.
(Rule R25.) -/
def Obligations.StepKeepsTheShadowsEqual : Prop :=
  ∀ s t : State, s.Mirrored → step s = .next t → t.Mirrored

/-- From every state whose memory list is canonical, lists no byte at or above MEM_SIZE, and has
MEM_SIZE at most CAP at most 2^32 and CAP at least 1 when initialized, every step that answers a
next state gives such a state. The canonical form is the model's own representation.
(Rests on 20_memory.md section 6 (rule R72), 10_state.md section 6 (rule R38), 00_scope.md section 3
(rule R6).) -/
def Obligations.StepKeepsTheImageWellFormed : Prop :=
  ∀ s t : State, s.ImageWf → step s = .next t → t.ImageWf

/-- From every state whose batch in progress, if any, has a word left, every step that answers a next
state gives such a state: a batch ends with its last word or its first failure. The field batch is
the model's own.
(Rests on 50_host_interface.md section 5 (rule R244).) -/
def Obligations.StepKeepsTheBatchNonEmpty : Prop :=
  ∀ s t : State, s.BatchWf → step s = .next t → t.BatchWf

/-- State.reset has its shadow fields equal to their registers, a well-formed image, and a word left in
any batch in progress (it has none). That reset is the state after init(0) is the model's own choice
(log entry 3).
(Rests on 10_state.md section 8 (rule R40), 10_state.md section 2 (rule R25).) -/
def Obligations.ResetMeetsTheInvariant : Prop :=
  State.reset.Inv

/-- When init(size) with a capacity of at most 2^32 (size, or 0x04000000 for 0) is the oldest
transaction and no batch is in progress: if the allocation succeeds the step replies 1 and CAP and
MEM_SIZE are the capacity, every register is 0 but SP, which is (CAP - 4) mod 2^32, the shadows
follow, every byte of memory is 0, the counter is 0 and the engine is initialized; if it fails the
step replies 0 and clears the initialized bit, changing nothing else. The zeros of R0 to R12, LR and
CPSR, MEM_SIZE = CAP, SP below 4 bytes and the failed init are the spec's decisions D2, D3, D4 and
D20 (log entries 1, 2, 12 and 7).
(Rests on 50_host_interface.md section 2 (rules R232, R233), 10_state.md section 8 (rule R40),
92_eei_decisions.md D2, D3, D4 and D20.) -/
def Obligations.InitResetsEverything : Prop :=
  ∀ (s : State) (size : Nat) (allocOk : Bool) (rest : List Transaction), s.batch = none →
    s.requests = .init size allocOk :: rest →
    let cap := if size = 0 then 0x04000000 else size
    cap ≤ 2 ^ 32 →
    (allocOk = true → ∃ t, step s = .next t ∧ t.cap = cap ∧ t.memSize = cap ∧
      (∀ i : Fin 17, t.readReg i = if i = 13 then wrap (cap - 4) else 0) ∧
      t.spShadow = wrap (cap - 4) ∧ t.lrShadow = 0 ∧ t.pcShadow = 0 ∧ (∀ a, t.byteAt a = 0) ∧ t.icount = 0 ∧
      t.initialized = true ∧ t.params = s.params ∧ t.requests = rest ∧ t.batch = none ∧ t.reply = some (.ok true)) ∧
    (allocOk = false →
      step s = .next { s with initialized := false, requests := rest, reply := some (.ok false) })

/-- State.reset has every register 0 but SP = 0x03FFFFFC, every byte of memory 0, MEM_SIZE = CAP =
0x04000000, the counter 0 and the initialized bit 1. The zeros and MEM_SIZE = CAP are the spec's
decisions D2 and D3 (log entries 1 and 2), and that the machine starts at init(0) is the model's
choice (log entry 3).
(Rests on 10_state.md section 8 (rule R40), 00_scope.md section 3 (rule R5).) -/
def Obligations.ResetStateIsInitOfTheDefaultCapacity : Prop :=
  (∀ i : Fin 17, State.reset.readReg i = if i = 13 then 0x03FFFFFC#32 else 0) ∧
  (∀ a, State.reset.byteAt a = 0) ∧ State.reset.memSize = 0x04000000 ∧ State.reset.cap = 0x04000000 ∧
  State.reset.icount = 0 ∧ State.reset.initialized = true

/-- For every instruction and state, the next state exec answers has the same CPSR bits 28 to 0.
(Rests on 10_state.md section 4 (rules R30, R34), 42_data_processing.md section 3 (rule R175).) -/
def Obligations.NoInstructionWritesVOrTheLowCpsrBits : Prop :=
  ∀ (i : Instr) (s t : State), exec i s = .next t → ∀ k, k < 29 → t.cpsr.getLsbD k = s.cpsr.getLsbD k

/-- For every instruction and state, if the CPSR of the next state exec answers differs, the instruction
is data processing with S = 1 or one of TST, TEQ, CMP, CMN, its condition passed, and it did not
fail.
(Rule R32.) -/
def Obligations.OnlyFlagSettingInstructionsWriteTheCpsr : Prop :=
  ∀ (i : Instr) (s t : State), exec i s = .next t → t.cpsr ≠ s.cpsr →
    mayWriteFlags i ∧ s.condPass i.cond = true ∧ t.result = .succeeded

/-- For every instruction and state, if R15 or its shadow differs in the next state exec answers, the
instruction is a branch, a writing data-processing operation with Rd = 15, a load with Rd = 15 or a
post-indexed load/store with Rn = 15, its condition passed, and it did not fail: no instruction
advances the PC as a side effect, which is the spec's own decision D5 (log entry 14).
(Rests on 10_state.md section 3 (rule R28), 92_eei_decisions.md D5.) -/
def Obligations.OnlyPcWritersChangeThePc : Prop :=
  ∀ (i : Instr) (s t : State), exec i s = .next t → t.readReg 15 ≠ s.readReg 15 ∨ t.pcShadow ≠ s.pcShadow →
    mayWritePc i ∧ s.condPass i.cond = true ∧ t.result = .succeeded

/-- For every instruction and state, the next state exec answers has the same MEM_SIZE, CAP, counter,
initialized bit, parameters, presented transactions, batch and reply; and the same memory unless the
instruction is a store that succeeded. That a store never changes MEM_SIZE or CAP is the spec's own
decision D10 (log entry 16).
(Rests on 20_memory.md section 1 (rule R52), 20_memory.md section 3 (rule R59), 50_host_interface.md
section 7 (rule R248), 92_eei_decisions.md D10.) -/
def Obligations.OnlyStoresChangeMemory : Prop :=
  ∀ (i : Instr) (s t : State), exec i s = .next t →
    SameElsewhere s t ∧ (t.mem ≠ s.mem → isStore i ∧ s.condPass i.cond = true ∧ t.result = .succeeded)

/-- For every instruction and state, if the next state exec answers has a failed result, it is the old
state with that result alone changed; the cause is IllegalInstruction exactly for the illegal class,
AccessOutOfRange exactly for a load or store, and never Uninitialized.
(Rests on 60_exceptions.md section 1 (rules R260, R262, R263), 40_decode_condition.md section 3
(rule R111).) -/
def Obligations.FailingInstructionChangesNothing : Prop :=
  ∀ (i : Instr) (s t : State) (cause : Cause), exec i s = .next t → t.result = .failed cause →
    t = { s with result := .failed cause } ∧
    ((cause = .illegalInstruction ∧ isIllegal i) ∨ (cause = .accessOutOfRange ∧ isLoadStore i))

/-- For every step that answers a next state: if it executes a word, of a batch or presented singly, on
an initialized engine, the counter is one more modulo 2^64, whether the instruction is skipped,
executed, illegal or out of range; if it executes a word on an uninitialized engine the counter is
unchanged; if it is a successful init the counter is 0; and if it executes no word and is no
successful init the counter is unchanged. The wrap modulo 2^64 is the spec's decision D15 (log entry
17).
(Rests on 40_decode_condition.md sections 1 and 3 (rules R101, R110), 10_state.md section 5 (rule
R37), 50_host_interface.md section 2 (rule R232), 92_eei_decisions.md D15.) -/
def Obligations.CounterCountsInstructionSteps : Prop :=
  ∀ s t : State, step s = .next t →
    ((nextWord s).isSome = true → s.initialized = true → t.icount = s.icount + 1) ∧
    ((nextWord s).isSome = true → s.initialized = false → t.icount = s.icount) ∧
    (succeedsAsInit s → t.icount = 0) ∧
    (nextWord s = none → ¬ succeedsAsInit s → t.icount = s.icount)

/-- For every instruction and every state exec answers a next state: no instruction stops the machine;
and unless it is of the illegal class or a load or store the step succeeds.
(Rests on 40_decode_condition.md section 3 (rule R109), 93_implementation_defined.md section 1
(U13), 70_reset_and_hazards.md section 4 (rule R299).) -/
def Obligations.EveryInstructionCompletes : Prop :=
  ∀ (i : Instr) (s : State), ∃ t, exec i s = .next t ∧ (t.result = .succeeded ∨ isIllegal i ∨ isLoadStore i)

/-- If a step faults, the oldest transaction is destroy; if it is refused beforeInit, the engine is
uninitialized and the oldest transaction is setRegister, getRegister, setPC, getPC,
getInstructionCount or getMemorySize; if it is refused for its capacity, the oldest transaction is
an init of more than 2^32 bytes, or a writeMemory whose range ends above CAP and whose allocation
succeeds; it is never refused as not modelled. The fault at destroy (log entry 10) and the refusal
of a writeMemory that would grow CAP past 2^32 (log entry 12) are the model's own choices; the
refusals before init and of an init above 2^32 bytes are the spec's own decisions D17 and D4 (log
entries 11 and 12).
(Rests on 50_host_interface.md section 7 (rule R249), 50_host_interface.md section 8 (rule R251),
50_host_interface.md section 2 (rule R233), 00_scope.md section 3 (rule R6), 92_eei_decisions.md D4
and D17.) -/
def Obligations.StepStopsOnlyAtMeaninglessTransactions : Prop :=
  ∀ s : State,
    (∀ r, step s = .fault r → s.batch = none ∧ ∃ rest, s.requests = .destroy :: rest) ∧
    (step s = .refused .beforeInit → s.initialized = false ∧ s.batch = none ∧ ∃ rest,
      (∃ k v, s.requests = .setRegister k v :: rest) ∨ (∃ k, s.requests = .getRegister k :: rest) ∨
      (∃ v, s.requests = .setPC v :: rest) ∨ s.requests = .getPC :: rest ∨
      s.requests = .getInstructionCount :: rest ∨ s.requests = .getMemorySize :: rest) ∧
    (step s = .refused .capacityUnsupported → s.batch = none ∧ ∃ rest,
      (∃ n b, s.requests = .init n b :: rest ∧ 2 ^ 32 < n) ∨
      (∃ a d, s.requests = .writeMemory a d true :: rest ∧ s.cap < a + d.length)) ∧
    (∀ m, step s ≠ .refused (.notModelled m))

/-- When writeMemory of at least one byte is the oldest transaction on an initialized engine with a
well-formed image: if growth is needed, however much, and the allocation fails, the step replies 0
and changes nothing else (the spec's decision D20, log entry 7). Otherwise, k doublings being the
fewest that hold the written range and the doubled capacity at most 2^32, the step replies 1, CAP is
doubled k times, MEM_SIZE is the larger of itself and the range's end, the bytes read as written,
every other byte as before, and a byte from the old MEM_SIZE up that the write does not cover as 0.
An empty write replies 1 and changes nothing (the spec's decision D24, log entry 17).
(Rests on 50_host_interface.md section 3 (rule R234), 95_test_vectors.md section 1.2 (I7),
92_eei_decisions.md D20 and D24.) -/
def Obligations.WriteMemoryGrowsAndWrites : Prop :=
  ∀ (s : State) (addr : Nat) (data : List Byte) (allocOk : Bool) (rest : List Transaction), s.ImageWf →
    s.initialized = true → s.batch = none → s.requests = .writeMemory addr data allocOk :: rest →
    (data = [] → step s = .next { s with requests := rest, reply := some (.ok true) }) ∧
    (data ≠ [] → s.cap < addr + data.length → allocOk = false →
      step s = .next { s with requests := rest, reply := some (.ok false) }) ∧
    (data ≠ [] → ∀ k : Nat, addr + data.length ≤ 2 ^ k * s.cap → (∀ j < k, 2 ^ j * s.cap < addr + data.length) →
      2 ^ k * s.cap ≤ 2 ^ 32 → k = 0 ∨ allocOk = true →
      ∃ m, step s = .next { s with
          mem := m, memSize := max s.memSize (addr + data.length), cap := 2 ^ k * s.cap, requests := rest,
          reply := some (.ok true) } ∧
        (∀ j (h : j < data.length), Memory.read m (addr + j) = data[j]) ∧
        (∀ a, a < addr ∨ addr + data.length ≤ a → Memory.read m a = s.byteAt a) ∧
        (∀ a, s.memSize ≤ a → a < addr ∨ addr + data.length ≤ a → Memory.read m a = 0))

/-- When readMemory is the oldest transaction and no batch is in progress, the step changes nothing but
the taken transaction and the reply: the bytes at addr to addr + len - 1 when the engine is
initialized and addr + len <= MEM_SIZE, otherwise none. With the memory canonical, the bytes written
by a writeMemory at the same place are the bytes delivered.
(Rule R235.) -/
def Obligations.ReadMemoryDeliversTheBytesInRange : Prop :=
  ∀ (s : State) (addr len : Nat) (rest : List Transaction), s.batch = none → s.requests = .readMemory addr len :: rest →
    (s.initialized = true ∧ addr + len ≤ s.memSize → ∃ bytes : List Byte, bytes.length = len ∧
      (∀ k (h : k < bytes.length), bytes[k] = s.byteAt (addr + k)) ∧
      (∀ (m : List Host.Cell) (data : List Byte), Memory.wf m = true → data.length = len →
        s.mem = Memory.writeBytes m addr data → bytes = data) ∧
      step s = .next { s with requests := rest, reply := some (.bytes (some bytes)) }) ∧
    (s.initialized = false ∨ s.memSize < addr + len →
      step s = .next { s with requests := rest, reply := some (.bytes none) })

/-- From every state with a well-formed image and no batch in progress whose oldest two transactions
write bytes to an address and read the same range back: if the write replies 1, the second step
replies with exactly the bytes written.
(Rests on 50_host_interface.md section 3 (rule R235), 95_test_vectors.md section 1.2 (I6).) -/
def Obligations.WriteMemoryThenReadMemoryRoundTrips : Prop :=
  ∀ (s t : State) (addr : Nat) (data : List Byte) (allocOk : Bool) (rest : List Transaction), s.ImageWf →
    s.batch = none → data ≠ [] →
    s.requests = .writeMemory addr data allocOk :: .readMemory addr data.length :: rest → step s = .next t →
    t.reply = some (.ok true) →
    step t = .next { t with requests := rest, reply := some (.bytes (some data)) }

/-- On an initialized engine with no batch in progress: setRegister of index 0 to 16 gives that word,
all 32 bits, the value and its shadow field too for 13, 14 and 15, and leaves every other word and
everything else; above 16 it changes nothing (the spec's decision D14, log entry 17); getRegister
replies the word, or 0 above 16, and changes no state.
(Rests on 50_host_interface.md section 4 (rules R236, R237), 92_eei_decisions.md D14.) -/
def Obligations.HostReadsAndWritesRegisters : Prop :=
  ∀ (s : State) (reg : Nat) (value : Word) (rest : List Transaction), s.initialized = true → s.batch = none →
    (s.requests = .setRegister reg value :: rest → ∃ t, step s = .next t ∧
      (∀ i : Fin 17, t.readReg i = if i.val = reg then value else s.readReg i) ∧
      t.spShadow = (if reg = 13 then value else s.spShadow) ∧
      t.lrShadow = (if reg = 14 then value else s.lrShadow) ∧
      t.pcShadow = (if reg = 15 then value else s.pcShadow) ∧
      t = { s with x := t.x, spShadow := t.spShadow, lrShadow := t.lrShadow, pcShadow := t.pcShadow,
                   requests := rest, reply := some .done } ∧
      (16 < reg → t = { s with requests := rest, reply := some .done })) ∧
    (s.requests = .getRegister reg :: rest →
      step s = .next { s with
        requests := rest, reply := some (.word (if h : reg < 17 then s.readReg ⟨reg, h⟩ else 0)) })

/-- On an initialized engine with no batch in progress, setPC writes x[15] and the PC shadow and nothing
else, and getPC replies x[15] with nothing added and changes no state.
(Rests on 50_host_interface.md section 4 (rule R238).) -/
def Obligations.SetPcAndGetPcMirrorRegisterFifteen : Prop :=
  ∀ (s : State) (value : Word) (rest : List Transaction), s.initialized = true → s.batch = none →
    (s.requests = .setPC value :: rest → ∃ t, step s = .next t ∧ t.readReg 15 = value ∧ t.pcShadow = value ∧
      (∀ i : Fin 17, i ≠ 15 → t.readReg i = s.readReg i) ∧
      t = { s with x := t.x, pcShadow := value, requests := rest, reply := some .done }) ∧
    (s.requests = .getPC :: rest → step s = .next { s with requests := rest, reply := some (.word (s.readReg 15)) })

/-- When executeInstructions of k words is the oldest transaction and no batch is in progress, some
number n of steps, at least one and at most the larger of 1 and k, ends with the reply being the
count of the spec's loop over the instruction step and the state being the one that loop leaves, the
batch over and the other presented transactions untouched. That a batch advances one word a step is
the model's own form (log entry 4).
(Rests on 50_host_interface.md section 5 (rules R242, R244).) -/
def Obligations.BatchCountsSuccessesUntilTheFirstFailure : Prop :=
  ∀ (s : State) (ws : List Word) (rest : List Transaction), s.batch = none →
    s.requests = .executeInstructions ws :: rest →
    let start := { s with requests := rest, reply := none }
    ∃ n, 1 ≤ n ∧ n ≤ max 1 ws.length ∧
      core.run n s = .next { (batchLoop ws start).2 with batch := none, reply := some (.count (batchLoop ws start).1) }

/-- On an initialized engine with no batch in progress, getInstructionCount replies the 64-bit counter
and changes nothing but the taken transaction and the reply; getMemorySize likewise replies
MEM_SIZE.
(Rule R245.) -/
def Obligations.CountersAreReadWithoutChange : Prop :=
  ∀ (s : State) (rest : List Transaction), s.initialized = true → s.batch = none →
    (s.requests = .getInstructionCount :: rest →
      step s = .next { s with requests := rest, reply := some (.counter s.icount) }) ∧
    (s.requests = .getMemorySize :: rest →
      step s = .next { s with requests := rest, reply := some (.size s.memSize) })

/-- With no batch in progress and the initialized bit 0, executeInstruction replies 0, records the
failure and changes nothing else, the counter included; executeInstructions of any non-empty
sequence replies 0 likewise; readMemory and writeMemory fail and change nothing.
(Rule R101.) -/
def Obligations.UninitializedEngineFailsEveryWord : Prop :=
  ∀ (s : State) (rest : List Transaction), s.initialized = false → s.batch = none →
    (∀ w, s.requests = .executeInstruction w :: rest →
      step s = .next { s with result := .failed .uninitialized, requests := rest, reply := some (.ok false) }) ∧
    (∀ w ws, s.requests = .executeInstructions (w :: ws) :: rest →
      step s = .next { s with result := .failed .uninitialized, requests := rest, reply := some (.count 0) }) ∧
    (∀ a n, s.requests = .readMemory a n :: rest →
      step s = .next { s with requests := rest, reply := some (.bytes none) }) ∧
    (∀ a d b, s.requests = .writeMemory a d b :: rest →
      step s = .next { s with requests := rest, reply := some (.ok false) })

/-- For every state with a canonical memory, value and address whose four bytes do not pass 2^32: after
the store of the word, a word load at the address gives the value, and for k from 0 to 3 a byte load
at address + k gives bits 8k+7 to 8k of it, zero-extended.
(Rests on 20_memory.md section 2 (rules R53, R55).) -/
def Obligations.StoredWordIsLoadedBackByteByByte : Prop :=
  ∀ (s : State) (addr v : Word), Memory.wf s.mem = true → addr.toNat + 4 ≤ 2 ^ 32 →
    (s.memWrite addr .word v).memRead addr .word = v ∧
    (∀ k : Nat, k < 4 → (s.memWrite addr .word v).memRead (addr + BitVec.ofNat 32 k) .byte =
      (v.extractLsb' (8 * k) 8).setWidth 32)

/-- With DECODE_001 = DataProcImm, a word with bits 27:25 equal to 001 whose condition passes, presented
on an initialized engine, completes as the data-processing operation of bits 24:21 with operand 2
the 8-bit immediate rotated right by twice bits 11:8; the result and carry are those of the ALU, and
the frame is that of data processing. This is the source's test configuration, not the normative
one.
(Rests on 41_barrel_shifter.md section 3 (rule R139), 30_encoding.md section 2 (rule R84),
90_conflicts.md C1.) -/
def Obligations.DataProcImmConfigurationRunsTheImmediateForm : Prop :=
  ∀ (s : State) (w : Word) (rest : List Transaction), Presents s w rest → s.params.decode001 = .dataProcImm →
    w.extractLsb' 25 3 = 0b001#3 → s.condPass (Cond.ofBits (w.extractLsb' 28 4)) = true →
    let op := DpOp.ofBits (w.extractLsb' 21 4)
    let r := (w.extractLsb' 8 4).toNat
    let imm := (w.extractLsb' 0 8).toNat
    let b := BitVec.ofNat 32 (imm / 2 ^ (2 * r) + imm % 2 ^ (2 * r) * 2 ^ (32 - 2 * r))
    let res := alu op (s.readReg (regField w 16).index) b s.cFlag
    ∃ t, step s = .next { t with reply := some (.ok true) } ∧
      DpLeaves (begun s rest) t op.isCompare (w.getLsbD 20) (regField w 12) res.result res.carry

/-- A step from a state with no presented transaction and no batch in progress answers the same state.
This is the model's own deduction (log entry 20) from R270 and R281, which say that nothing in the
block acts on its own.
(Rests on 60_exceptions.md section 3 (rule R270), 60_exceptions.md section 6 (rule R281).) -/
def Obligations.IdleEngineStaysAsItIs : Prop :=
  ∀ s : State, s.requests = [] → s.batch = none → step s = .next s
end

