-- ==== Sys2Proof/Laws/Memory.lean ====
section
/-! SUPPORT. The laws of the memory image: what a read sees after a write, and that every memory
operation keeps the canonical form and the bound of the listed addresses. -/

namespace Sys2Proof.Machine

/-- A canonical list that starts at `hi` starts at every lower bound. -/
theorem Memory.wfFrom_mono {lo hi : Nat} (h : lo ≤ hi) {m : List Host.Cell} (hm : Memory.wfFrom hi m = true) :
    Memory.wfFrom lo m = true := by
  cases m with
  | nil => rfl
  | cons c rest =>
    simp only [Memory.wfFrom, Bool.and_eq_true, decide_eq_true_eq] at hm ⊢
    exact ⟨⟨by omega, hm.1.2⟩, hm.2⟩

/-- Below its first address a canonical list reads as unlisted. -/
theorem Memory.read_below {lo a : Nat} (h : a < lo) {m : List Host.Cell} (hm : Memory.wfFrom lo m = true) :
    Memory.read m a = unlistedByte := by
  induction m generalizing lo with
  | nil => rfl
  | cons c rest ih =>
    simp only [Memory.wfFrom, Bool.and_eq_true, decide_eq_true_eq] at hm
    have hne : c.1 ≠ a := by omega
    simp only [Memory.read, hne, if_false]
    exact ih (by omega) hm.2

/-- A write keeps the canonical form. -/
theorem Memory.wfFrom_write {lo a : Nat} (h : lo ≤ a) (b : Byte) {m : List Host.Cell}
    (hm : Memory.wfFrom lo m = true) : Memory.wfFrom lo (Memory.write m a b) = true := by
  induction m generalizing lo with
  | nil =>
    unfold Memory.write
    split <;> simp_all [Memory.wfFrom]
  | cons c rest ih =>
    simp only [Memory.wfFrom, Bool.and_eq_true, decide_eq_true_eq] at hm
    unfold Memory.write
    split
    · split
      · simp_all [Memory.wfFrom]
      · simp only [Memory.wfFrom, Bool.and_eq_true, decide_eq_true_eq]
        exact ⟨⟨h, ‹_›⟩, ⟨by omega, hm.1.2⟩, hm.2⟩
    · split
      · split
        · exact Memory.wfFrom_mono (by omega) hm.2
        · simp only [Memory.wfFrom, Bool.and_eq_true, decide_eq_true_eq]
          subst_vars
          exact ⟨⟨h, ‹_›⟩, hm.2⟩
      · simp only [Memory.wfFrom, Bool.and_eq_true, decide_eq_true_eq]
        exact ⟨hm.1, ih (by omega) hm.2⟩

/-- What a read sees after a write of one byte. -/
theorem Memory.readFrom_write {lo : Nat} (a : Nat) (b : Byte) {m : List Host.Cell}
    (hm : Memory.wfFrom lo m = true) (k : Nat) :
    Memory.read (Memory.write m a b) k = if k = a then b else Memory.read m k := by
  induction m generalizing lo with
  | nil =>
    unfold Memory.write
    split
    · rename_i hb
      simp [Memory.read, hb]
    · by_cases hk : k = a
      · simp [Memory.read, hk]
      · have : a ≠ k := fun h => hk h.symm
        simp [Memory.read, hk, this]
  | cons c rest ih =>
    simp only [Memory.wfFrom, Bool.and_eq_true, decide_eq_true_eq] at hm
    unfold Memory.write
    split
    · rename_i hlt
      split
      · rename_i hb
        by_cases hk : k = a
        · subst hk
          have hne : c.1 ≠ k := by omega
          simp only [Memory.read, hne, if_false, if_true, hb]
          exact Memory.read_below (by omega) hm.2
        · simp [hk]
      · by_cases hk : k = a
        · simp [Memory.read, hk]
        · have : a ≠ k := fun h => hk h.symm
          simp [Memory.read, hk, this]
    · split
      · rename_i hge heq
        split
        · rename_i hb
          by_cases hk : k = a
          · simp only [hk, if_true, hb]
            exact Memory.read_below (by omega) hm.2
          · have : c.1 ≠ k := by omega
            simp [Memory.read, hk, this]
        · by_cases hk : k = a
          · simp [Memory.read, hk]
          · have h1 : a ≠ k := fun h => hk h.symm
            have h2 : c.1 ≠ k := by omega
            simp [Memory.read, hk, h1, h2]
      · by_cases hc : c.1 = k
        · have : k ≠ a := by omega
          simp [Memory.read, hc, this]
        · simp only [Memory.read, hc, if_false]
          exact ih hm.2

/-- What a read sees after a write of one byte to a canonical memory. -/
theorem Memory.read_write (a : Nat) (b : Byte) {m : List Host.Cell} (hm : Memory.wf m = true) (k : Nat) :
    Memory.read (Memory.write m a b) k = if k = a then b else Memory.read m k :=
  Memory.readFrom_write a b hm k

/-- A write keeps the canonical form. -/
theorem Memory.wf_write (a : Nat) (b : Byte) {m : List Host.Cell} (hm : Memory.wf m = true) :
    Memory.wf (Memory.write m a b) = true :=
  Memory.wfFrom_write (Nat.zero_le a) b hm

/-- Writing bytes at consecutive addresses keeps the canonical form. -/
theorem Memory.wf_writeBytes (bytes : List Byte) (a : Nat) {m : List Host.Cell} (hm : Memory.wf m = true) :
    Memory.wf (Memory.writeBytes m a bytes) = true := by
  induction bytes generalizing m a with
  | nil => exact hm
  | cons b rest ih => exact ih (a + 1) (Memory.wf_write a b hm)

/-- What a read sees after a write of consecutive bytes: the byte written there, or the old byte
outside them. -/
theorem Memory.read_writeBytes (bytes : List Byte) (a : Nat) {m : List Host.Cell} (hm : Memory.wf m = true)
    (k : Nat) : Memory.read (Memory.writeBytes m a bytes) k =
      if a ≤ k ∧ k < a + bytes.length then bytes.getD (k - a) unlistedByte else Memory.read m k := by
  induction bytes generalizing m a with
  | nil =>
    simp [Memory.writeBytes]
  | cons b rest ih =>
    simp only [Memory.writeBytes, ih (a + 1) (Memory.wf_write a b hm), Memory.read_write a b hm,
      List.length_cons]
    rcases Nat.lt_trichotomy k a with h | h | h
    · rw [if_neg (by omega), if_neg (by omega), if_neg (by omega)]
    · subst h
      rw [if_neg (by omega), if_pos rfl, if_pos (by omega)]
      simp
    · by_cases hk : k < a + (rest.length + 1)
      · rw [if_pos (by omega), if_pos (by omega)]
        have : k - a = k - (a + 1) + 1 := by omega
        simp [this]
      · rw [if_neg (by omega), if_neg (by omega), if_neg (by omega)]

/-- A write below the bound keeps the listed addresses below it. -/
theorem Memory.below_write {n a : Nat} (h : a < n) (b : Byte) {m : List Host.Cell}
    (hm : Memory.below n m = true) : Memory.below n (Memory.write m a b) = true := by
  induction m with
  | nil =>
    unfold Memory.write
    split <;> simp_all [Memory.below]
  | cons c rest ih =>
    have hm' := hm
    simp only [Memory.below, List.all_cons, Bool.and_eq_true, decide_eq_true_eq] at hm
    unfold Memory.write
    split
    · split
      · exact hm'
      · simp only [Memory.below, List.all_cons, Bool.and_eq_true, decide_eq_true_eq]
        exact ⟨h, hm⟩
    · split
      · split
        · exact hm.2
        · simp only [Memory.below, List.all_cons, Bool.and_eq_true, decide_eq_true_eq]
          exact ⟨h, hm.2⟩
      · simp only [Memory.below, List.all_cons, Bool.and_eq_true, decide_eq_true_eq]
        exact ⟨hm.1, ih hm.2⟩

/-- Writing consecutive bytes that end at or below the bound keeps the listed addresses below it. -/
theorem Memory.below_writeBytes (bytes : List Byte) {n a : Nat} (h : a + bytes.length ≤ n) {m : List Host.Cell}
    (hm : Memory.below n m = true) : Memory.below n (Memory.writeBytes m a bytes) = true := by
  induction bytes generalizing m a with
  | nil => exact hm
  | cons b rest ih =>
    simp only [List.length_cons] at h
    exact ih (by omega) (Memory.below_write (by omega) b hm)

/-- Raising the bound keeps the listed addresses below it. -/
theorem Memory.below_mono {n k : Nat} (h : n ≤ k) {m : List Host.Cell} (hm : Memory.below n m = true) :
    Memory.below k m = true := by
  simp only [Memory.below, List.all_eq_true, decide_eq_true_eq] at hm ⊢
  exact fun c hc => Nat.lt_of_lt_of_le (hm c hc) h

/-- At and above the bound of its listed addresses a memory reads as unlisted. -/
theorem Memory.read_of_below {n a : Nat} (h : n ≤ a) {m : List Host.Cell} (hm : Memory.below n m = true) :
    Memory.read m a = unlistedByte := by
  induction m with
  | nil => rfl
  | cons c rest ih =>
    simp only [Memory.below, List.all_cons, Bool.and_eq_true, decide_eq_true_eq] at hm
    have hne : c.1 ≠ a := by omega
    simp only [Memory.read, hne, if_false]
    exact ih hm.2

/-- Reading bytes gives as many as were asked for. -/
theorem Memory.readBytes_length (m : List Host.Cell) (n : Nat) (a : Nat) : (Memory.readBytes m a n).length = n := by
  induction n generalizing a with
  | zero => rfl
  | succ n ih => simp [Memory.readBytes, ih]

/-- The byte at each place of a read of consecutive bytes. -/
theorem Memory.readBytes_getElem? (m : List Host.Cell) (n a k : Nat) (h : k < n) :
    (Memory.readBytes m a n)[k]? = some (Memory.read m (a + k)) := by
  induction n generalizing a k with
  | zero => omega
  | succ n ih =>
    cases k with
    | zero => rfl
    | succ k =>
      simp only [Memory.readBytes, List.getElem?_cons_succ]
      rw [ih (a + 1) k (by omega)]
      congr 2
      omega

/-- A store writes as many bytes as its width. -/
@[simp] theorem storedBytes_length (w : Width) (v : Word) : (storedBytes w v).length = w.bytes := by
  cases w <;> rfl

/-- What a byte of memory reads as after a store: byte `k - addr` of the stored value inside the stored
bytes, the old byte outside them. -/
theorem State.byteAt_memWrite (s : State) (hm : Memory.wf s.mem = true) (addr : Word) (w : Width) (v : Word)
    (k : Nat) : (s.memWrite addr w v).byteAt k =
      if addr.toNat ≤ k ∧ k < addr.toNat + w.bytes then (storedBytes w v).getD (k - addr.toNat) unlistedByte
      else s.byteAt k := by
  simp only [State.byteAt, State.memWrite, Memory.read_writeBytes _ _ hm, storedBytes_length]

end Sys2Proof.Machine
end

