-- ==== Sys2Proof/Laws/State.lean ====
section
/-! SUPPORT. What each update of the state leaves in each field: one lemma per field per update. -/

namespace Sys2Proof.Machine

/-! ### succeed -/

@[simp] theorem State.succeed_x (s : State) : (s.succeed).x = s.x := rfl
@[simp] theorem State.succeed_pcShadow (s : State) : (s.succeed).pcShadow = s.pcShadow := rfl
@[simp] theorem State.succeed_spShadow (s : State) : (s.succeed).spShadow = s.spShadow := rfl
@[simp] theorem State.succeed_lrShadow (s : State) : (s.succeed).lrShadow = s.lrShadow := rfl
@[simp] theorem State.succeed_mem (s : State) : (s.succeed).mem = s.mem := rfl
@[simp] theorem State.succeed_memSize (s : State) : (s.succeed).memSize = s.memSize := rfl
@[simp] theorem State.succeed_cap (s : State) : (s.succeed).cap = s.cap := rfl
@[simp] theorem State.succeed_icount (s : State) : (s.succeed).icount = s.icount := rfl
@[simp] theorem State.succeed_initialized (s : State) : (s.succeed).initialized = s.initialized := rfl
@[simp] theorem State.succeed_params (s : State) : (s.succeed).params = s.params := rfl
@[simp] theorem State.succeed_requests (s : State) : (s.succeed).requests = s.requests := rfl
@[simp] theorem State.succeed_batch (s : State) : (s.succeed).batch = s.batch := rfl
@[simp] theorem State.succeed_result (s : State) : (s.succeed).result = .succeeded := rfl
@[simp] theorem State.succeed_reply (s : State) : (s.succeed).reply = s.reply := rfl

@[simp] theorem State.succeed_readReg (s : State) (j : Fin 17) : (s.succeed).readReg j = s.readReg j := rfl
@[simp] theorem State.succeed_cpsr (s : State) : (s.succeed).cpsr = s.cpsr := rfl
@[simp] theorem State.succeed_condPass (s : State) (k : Cond) : (s.succeed).condPass k = s.condPass k := by
  cases k <;> rfl
@[simp] theorem State.succeed_byteAt (s : State) (k : Nat) : (s.succeed).byteAt k = s.byteAt k := rfl
@[simp] theorem State.succeed_inRange (s : State) (k : Word) (n : Width) : (s.succeed).inRange k n = s.inRange k n := rfl

/-! ### fail -/

@[simp] theorem State.fail_x (s : State) (c : Cause) : (s.fail c).x = s.x := rfl
@[simp] theorem State.fail_pcShadow (s : State) (c : Cause) : (s.fail c).pcShadow = s.pcShadow := rfl
@[simp] theorem State.fail_spShadow (s : State) (c : Cause) : (s.fail c).spShadow = s.spShadow := rfl
@[simp] theorem State.fail_lrShadow (s : State) (c : Cause) : (s.fail c).lrShadow = s.lrShadow := rfl
@[simp] theorem State.fail_mem (s : State) (c : Cause) : (s.fail c).mem = s.mem := rfl
@[simp] theorem State.fail_memSize (s : State) (c : Cause) : (s.fail c).memSize = s.memSize := rfl
@[simp] theorem State.fail_cap (s : State) (c : Cause) : (s.fail c).cap = s.cap := rfl
@[simp] theorem State.fail_icount (s : State) (c : Cause) : (s.fail c).icount = s.icount := rfl
@[simp] theorem State.fail_initialized (s : State) (c : Cause) : (s.fail c).initialized = s.initialized := rfl
@[simp] theorem State.fail_params (s : State) (c : Cause) : (s.fail c).params = s.params := rfl
@[simp] theorem State.fail_requests (s : State) (c : Cause) : (s.fail c).requests = s.requests := rfl
@[simp] theorem State.fail_batch (s : State) (c : Cause) : (s.fail c).batch = s.batch := rfl
@[simp] theorem State.fail_result (s : State) (c : Cause) : (s.fail c).result = .failed c := rfl
@[simp] theorem State.fail_reply (s : State) (c : Cause) : (s.fail c).reply = s.reply := rfl

@[simp] theorem State.fail_readReg (s : State) (c : Cause) (j : Fin 17) : (s.fail c).readReg j = s.readReg j := rfl
@[simp] theorem State.fail_cpsr (s : State) (c : Cause) : (s.fail c).cpsr = s.cpsr := rfl
@[simp] theorem State.fail_condPass (s : State) (c : Cause) (k : Cond) : (s.fail c).condPass k = s.condPass k := by
  cases k <;> rfl
@[simp] theorem State.fail_byteAt (s : State) (c : Cause) (k : Nat) : (s.fail c).byteAt k = s.byteAt k := rfl
@[simp] theorem State.fail_inRange (s : State) (c : Cause) (k : Word) (n : Width) : (s.fail c).inRange k n = s.inRange k n := rfl

/-! ### countStep -/

@[simp] theorem State.countStep_x (s : State) : (s.countStep).x = s.x := rfl
@[simp] theorem State.countStep_pcShadow (s : State) : (s.countStep).pcShadow = s.pcShadow := rfl
@[simp] theorem State.countStep_spShadow (s : State) : (s.countStep).spShadow = s.spShadow := rfl
@[simp] theorem State.countStep_lrShadow (s : State) : (s.countStep).lrShadow = s.lrShadow := rfl
@[simp] theorem State.countStep_mem (s : State) : (s.countStep).mem = s.mem := rfl
@[simp] theorem State.countStep_memSize (s : State) : (s.countStep).memSize = s.memSize := rfl
@[simp] theorem State.countStep_cap (s : State) : (s.countStep).cap = s.cap := rfl
@[simp] theorem State.countStep_icount (s : State) : (s.countStep).icount = s.icount + 1 := rfl
@[simp] theorem State.countStep_initialized (s : State) : (s.countStep).initialized = s.initialized := rfl
@[simp] theorem State.countStep_params (s : State) : (s.countStep).params = s.params := rfl
@[simp] theorem State.countStep_requests (s : State) : (s.countStep).requests = s.requests := rfl
@[simp] theorem State.countStep_batch (s : State) : (s.countStep).batch = s.batch := rfl
@[simp] theorem State.countStep_result (s : State) : (s.countStep).result = s.result := rfl
@[simp] theorem State.countStep_reply (s : State) : (s.countStep).reply = s.reply := rfl

@[simp] theorem State.countStep_readReg (s : State) (j : Fin 17) : (s.countStep).readReg j = s.readReg j := rfl
@[simp] theorem State.countStep_cpsr (s : State) : (s.countStep).cpsr = s.cpsr := rfl
@[simp] theorem State.countStep_condPass (s : State) (k : Cond) : (s.countStep).condPass k = s.condPass k := by
  cases k <;> rfl
@[simp] theorem State.countStep_byteAt (s : State) (k : Nat) : (s.countStep).byteAt k = s.byteAt k := rfl
@[simp] theorem State.countStep_inRange (s : State) (k : Word) (n : Width) : (s.countStep).inRange k n = s.inRange k n := rfl

/-! ### respond -/

@[simp] theorem State.respond_x (s : State) (r : Reply) : (s.respond r).x = s.x := rfl
@[simp] theorem State.respond_pcShadow (s : State) (r : Reply) : (s.respond r).pcShadow = s.pcShadow := rfl
@[simp] theorem State.respond_spShadow (s : State) (r : Reply) : (s.respond r).spShadow = s.spShadow := rfl
@[simp] theorem State.respond_lrShadow (s : State) (r : Reply) : (s.respond r).lrShadow = s.lrShadow := rfl
@[simp] theorem State.respond_mem (s : State) (r : Reply) : (s.respond r).mem = s.mem := rfl
@[simp] theorem State.respond_memSize (s : State) (r : Reply) : (s.respond r).memSize = s.memSize := rfl
@[simp] theorem State.respond_cap (s : State) (r : Reply) : (s.respond r).cap = s.cap := rfl
@[simp] theorem State.respond_icount (s : State) (r : Reply) : (s.respond r).icount = s.icount := rfl
@[simp] theorem State.respond_initialized (s : State) (r : Reply) : (s.respond r).initialized = s.initialized := rfl
@[simp] theorem State.respond_params (s : State) (r : Reply) : (s.respond r).params = s.params := rfl
@[simp] theorem State.respond_requests (s : State) (r : Reply) : (s.respond r).requests = s.requests := rfl
@[simp] theorem State.respond_batch (s : State) (r : Reply) : (s.respond r).batch = s.batch := rfl
@[simp] theorem State.respond_result (s : State) (r : Reply) : (s.respond r).result = s.result := rfl
@[simp] theorem State.respond_reply (s : State) (r : Reply) : (s.respond r).reply = some r := rfl

@[simp] theorem State.respond_readReg (s : State) (r : Reply) (j : Fin 17) : (s.respond r).readReg j = s.readReg j := rfl
@[simp] theorem State.respond_cpsr (s : State) (r : Reply) : (s.respond r).cpsr = s.cpsr := rfl
@[simp] theorem State.respond_condPass (s : State) (r : Reply) (k : Cond) : (s.respond r).condPass k = s.condPass k := by
  cases k <;> rfl
@[simp] theorem State.respond_byteAt (s : State) (r : Reply) (k : Nat) : (s.respond r).byteAt k = s.byteAt k := rfl
@[simp] theorem State.respond_inRange (s : State) (r : Reply) (k : Word) (n : Width) : (s.respond r).inRange k n = s.inRange k n := rfl

/-! ### memWrite -/

@[simp] theorem State.memWrite_x (s : State) (a : Word) (w : Width) (v : Word) : (s.memWrite a w v).x = s.x := rfl
@[simp] theorem State.memWrite_pcShadow (s : State) (a : Word) (w : Width) (v : Word) : (s.memWrite a w v).pcShadow = s.pcShadow := rfl
@[simp] theorem State.memWrite_spShadow (s : State) (a : Word) (w : Width) (v : Word) : (s.memWrite a w v).spShadow = s.spShadow := rfl
@[simp] theorem State.memWrite_lrShadow (s : State) (a : Word) (w : Width) (v : Word) : (s.memWrite a w v).lrShadow = s.lrShadow := rfl
@[simp] theorem State.memWrite_mem (s : State) (a : Word) (w : Width) (v : Word) : (s.memWrite a w v).mem = Memory.writeBytes s.mem a.toNat (storedBytes w v) := rfl
@[simp] theorem State.memWrite_memSize (s : State) (a : Word) (w : Width) (v : Word) : (s.memWrite a w v).memSize = s.memSize := rfl
@[simp] theorem State.memWrite_cap (s : State) (a : Word) (w : Width) (v : Word) : (s.memWrite a w v).cap = s.cap := rfl
@[simp] theorem State.memWrite_icount (s : State) (a : Word) (w : Width) (v : Word) : (s.memWrite a w v).icount = s.icount := rfl
@[simp] theorem State.memWrite_initialized (s : State) (a : Word) (w : Width) (v : Word) : (s.memWrite a w v).initialized = s.initialized := rfl
@[simp] theorem State.memWrite_params (s : State) (a : Word) (w : Width) (v : Word) : (s.memWrite a w v).params = s.params := rfl
@[simp] theorem State.memWrite_requests (s : State) (a : Word) (w : Width) (v : Word) : (s.memWrite a w v).requests = s.requests := rfl
@[simp] theorem State.memWrite_batch (s : State) (a : Word) (w : Width) (v : Word) : (s.memWrite a w v).batch = s.batch := rfl
@[simp] theorem State.memWrite_result (s : State) (a : Word) (w : Width) (v : Word) : (s.memWrite a w v).result = s.result := rfl
@[simp] theorem State.memWrite_reply (s : State) (a : Word) (w : Width) (v : Word) : (s.memWrite a w v).reply = s.reply := rfl

@[simp] theorem State.memWrite_readReg (s : State) (a : Word) (w : Width) (v : Word) (j : Fin 17) : (s.memWrite a w v).readReg j = s.readReg j := rfl
@[simp] theorem State.memWrite_cpsr (s : State) (a : Word) (w : Width) (v : Word) : (s.memWrite a w v).cpsr = s.cpsr := rfl
@[simp] theorem State.memWrite_condPass (s : State) (a : Word) (w : Width) (v : Word) (k : Cond) : (s.memWrite a w v).condPass k = s.condPass k := by
  cases k <;> rfl
@[simp] theorem State.memWrite_inRange (s : State) (a : Word) (w : Width) (v : Word) (k : Word) (n : Width) : (s.memWrite a w v).inRange k n = s.inRange k n := rfl

/-! ### writeReg -/

@[simp] theorem State.writeReg_x (s : State) (i : Fin 17) (v : Word) : (s.writeReg i v).x = s.x.set i v := rfl
@[simp] theorem State.writeReg_pcShadow (s : State) (i : Fin 17) (v : Word) : (s.writeReg i v).pcShadow = if i = 15 then v else s.pcShadow := rfl
@[simp] theorem State.writeReg_spShadow (s : State) (i : Fin 17) (v : Word) : (s.writeReg i v).spShadow = if i = 13 then v else s.spShadow := rfl
@[simp] theorem State.writeReg_lrShadow (s : State) (i : Fin 17) (v : Word) : (s.writeReg i v).lrShadow = if i = 14 then v else s.lrShadow := rfl
@[simp] theorem State.writeReg_mem (s : State) (i : Fin 17) (v : Word) : (s.writeReg i v).mem = s.mem := rfl
@[simp] theorem State.writeReg_memSize (s : State) (i : Fin 17) (v : Word) : (s.writeReg i v).memSize = s.memSize := rfl
@[simp] theorem State.writeReg_cap (s : State) (i : Fin 17) (v : Word) : (s.writeReg i v).cap = s.cap := rfl
@[simp] theorem State.writeReg_icount (s : State) (i : Fin 17) (v : Word) : (s.writeReg i v).icount = s.icount := rfl
@[simp] theorem State.writeReg_initialized (s : State) (i : Fin 17) (v : Word) : (s.writeReg i v).initialized = s.initialized := rfl
@[simp] theorem State.writeReg_params (s : State) (i : Fin 17) (v : Word) : (s.writeReg i v).params = s.params := rfl
@[simp] theorem State.writeReg_requests (s : State) (i : Fin 17) (v : Word) : (s.writeReg i v).requests = s.requests := rfl
@[simp] theorem State.writeReg_batch (s : State) (i : Fin 17) (v : Word) : (s.writeReg i v).batch = s.batch := rfl
@[simp] theorem State.writeReg_result (s : State) (i : Fin 17) (v : Word) : (s.writeReg i v).result = s.result := rfl
@[simp] theorem State.writeReg_reply (s : State) (i : Fin 17) (v : Word) : (s.writeReg i v).reply = s.reply := rfl

/-- A register write is seen in its own word and in no other. -/
@[simp] theorem State.readReg_writeReg (s : State) (i j : Fin 17) (v : Word) :
    (s.writeReg i v).readReg j = if i = j then v else s.readReg j := by
  simp only [State.readReg, State.writeReg, Fin.getElem_fin, Vector.getElem_set, Fin.ext_iff]

@[simp] theorem State.writeReg_byteAt (s : State) (i : Fin 17) (v : Word) (k : Nat) :
    (s.writeReg i v).byteAt k = s.byteAt k := rfl

@[simp] theorem State.writeReg_inRange (s : State) (i : Fin 17) (v : Word) (k : Word) (n : Width) :
    (s.writeReg i v).inRange k n = s.inRange k n := rfl

/-- Two states with the same register words have the same register file. -/
theorem State.x_ext {s t : State} (h : ∀ i, t.readReg i = s.readReg i) : t.x = s.x := by
  apply Vector.ext
  intro i hi
  exact h ⟨i, hi⟩

/-- The register field of an instruction never names the CPSR. -/
@[simp] theorem RegNum_index_ne_cpsr (r : RegNum) : r.index ≠ 16 := by
  intro h
  have := congrArg Fin.val h
  simp only [RegNum.index, Fin.val_castSucc] at this
  have := r.isLt
  simp_all

@[simp] theorem RegNum_index_inj (r q : RegNum) : r.index = q.index ↔ r = q := by
  simp [RegNum.index]

/-! ### The boundary's outcomes -/

@[simp] theorem mapNext_next (f : State → State) (s : State) : mapNext f (.next s) = .next (f s) := rfl

/-- `mapNext` answers a next state only where the outcome it maps does. -/
theorem mapNext_eq_next {f : State → State} {o : Outcome} {t : State} (h : mapNext f o = .next t) :
    ∃ u, o = .next u ∧ t = f u := by
  cases o with
  | next u => exact ⟨u, rfl, by simpa [mapNext] using h.symm⟩
  | fault _ => simp [mapNext] at h
  | refused _ => simp [mapNext] at h

/-- What a guarded instruction can do: its effect when the condition passes, nothing when it does not. -/
theorem whenPasses_eq_next {c : Cond} {s t : State} {f : State → State} (h : whenPasses c s f = .next t) :
    (s.condPass c = true ∧ t = f s) ∨ (s.condPass c = false ∧ t = s.succeed) := by
  cases hc : s.condPass c with
  | true => exact .inl ⟨rfl, by simpa [whenPasses, hc] using h.symm⟩
  | false => exact .inr ⟨rfl, by simpa [whenPasses, hc] using h.symm⟩

theorem whenPasses_of_pass {c : Cond} {s : State} (f : State → State) (h : s.condPass c = true) :
    whenPasses c s f = .next (f s) := by
  simp [whenPasses, h]

theorem whenPasses_of_skip {c : Cond} {s : State} (f : State → State) (h : s.condPass c = false) :
    whenPasses c s f = .next s.succeed := by
  simp [whenPasses, h]

end Sys2Proof.Machine
end

