-- ==== Sys2Proof/Laws/Ops.lean ====
section
/-! SUPPORT. What each shared operation does, said once: the flag unit, the four executors, and the
dispatch seen by formats. -/

namespace Sys2Proof.Machine

/-! ### The flag unit -/

theorem nzBits_getLsbD (r : Word) (k : Nat) :
    (nzBits r).getLsbD k = ((decide (k = 31) && r.getLsbD 31) || (decide (k = 30) && decide (r = 0))) := by
  have h1 : (0x80000000#32).getLsbD k = decide (k = 31) := by
    by_cases hk : k < 32
    · interval_cases k <;> rfl
    · rw [BitVec.getLsbD_of_ge _ _ (by omega)]
      exact (decide_eq_false (by omega)).symm
  have h2 : (0x40000000#32).getLsbD k = decide (k = 30) := by
    by_cases hk : k < 32
    · interval_cases k <;> rfl
    · rw [BitVec.getLsbD_of_ge _ _ (by omega)]
      exact (decide_eq_false (by omega)).symm
  unfold nzBits
  cases hr : r.getLsbD 31 <;> by_cases h0 : r = 0 <;> simp_all

theorem keepNZ_getLsbD (k : Nat) : (0x3FFFFFFF#32).getLsbD k = decide (k < 30) := by
  by_cases hk : k < 32
  · interval_cases k <;> rfl
  · rw [BitVec.getLsbD_of_ge _ _ (by omega)]
    exact (decide_eq_false (by omega)).symm

theorem keepNZC_getLsbD (k : Nat) : (0x1FFFFFFF#32).getLsbD k = decide (k < 29) := by
  by_cases hk : k < 32
  · interval_cases k <;> rfl
  · rw [BitVec.getLsbD_of_ge _ _ (by omega)]
    exact (decide_eq_false (by omega)).symm

theorem carryBit_getLsbD (k : Nat) : (0x20000000#32).getLsbD k = decide (k = 29) := by
  by_cases hk : k < 32
  · interval_cases k <;> rfl
  · rw [BitVec.getLsbD_of_ge _ _ (by omega)]
    exact (decide_eq_false (by omega)).symm

/-- The bits of the CPSR after `SetNZ`: bit 31 of the result, whether it is 0, the rest as before. -/
theorem setNZ_getLsbD (r cpsr : Word) (k : Nat) :
    (setNZ r cpsr).getLsbD k =
      ((decide (k = 31) && r.getLsbD 31) || (decide (k = 30) && decide (r = 0)) ||
        (decide (k < 30) && cpsr.getLsbD k)) := by
  simp only [setNZ, BitVec.getLsbD_or, BitVec.getLsbD_and, nzBits_getLsbD, keepNZ_getLsbD, Bool.and_comm]

/-- The bits of the CPSR after `SetNZC`. -/
theorem setNZC_getLsbD (r cpsr : Word) (c : Bool) (k : Nat) :
    (setNZC r c cpsr).getLsbD k =
      ((decide (k = 31) && r.getLsbD 31) || (decide (k = 30) && decide (r = 0)) || (decide (k = 29) && c) ||
        (decide (k < 29) && cpsr.getLsbD k)) := by
  cases c <;>
    simp [setNZC, nzBits_getLsbD, keepNZC_getLsbD, carryBit_getLsbD, Bool.and_comm]

/-- The CPSR that a flag write leaves. -/
def flagsOf (r : AluResult) (cpsr : Word) : Word :=
  match r.carry with
  | none => setNZ r.result cpsr
  | some c => setNZC r.result c cpsr

theorem setFlags_eq (s : State) (r : AluResult) : s.setFlags r = s.writeReg 16 (flagsOf r s.cpsr) := rfl

/-- What a flag write does to each bit of the CPSR: N and Z from the result, C from an arithmetic
operation's carry, V and bits 27:0 kept. -/
theorem flagsOf_getLsbD (r : AluResult) (cpsr : Word) (k : Nat) (hk : k < 32) :
    (flagsOf r cpsr).getLsbD k =
      if k = 31 then r.result.getLsbD 31 else if k = 30 then decide (r.result = 0)
      else if k = 29 then r.carry.getD (cpsr.getLsbD 29) else cpsr.getLsbD k := by
  unfold flagsOf
  cases hc : r.carry with
  | none =>
    simp only [setNZ_getLsbD, Option.getD_none]
    interval_cases k <;> simp
  | some c =>
    simp only [setNZC_getLsbD, Option.getD_some]
    interval_cases k <;> simp

/-! ### Registers that a field names -/

@[simp] theorem State.readReg_index_writeReg_index (s : State) (r q : RegNum) (v : Word) :
    (s.writeReg r.index v).readReg q.index = if r = q then v else s.readReg q.index := by
  simp

@[simp] theorem State.cpsr_writeReg_index (s : State) (r : RegNum) (v : Word) :
    (s.writeReg r.index v).cpsr = s.cpsr := by
  simp [State.cpsr]

@[simp] theorem RegNum_index_eq_sp (r : RegNum) : r.index = 13 ↔ r = 13 := RegNum_index_inj r 13

@[simp] theorem RegNum_index_eq_lr (r : RegNum) : r.index = 14 ↔ r = 14 := RegNum_index_inj r 14

@[simp] theorem RegNum_index_eq_pc (r : RegNum) : r.index = 15 ↔ r = 15 := RegNum_index_inj r 15

@[simp] theorem cpsr_ne_RegNum_index (r : RegNum) : (16 : Fin 17) ≠ r.index := (RegNum_index_ne_cpsr r).symm

@[simp] theorem pc_eq_RegNum_index (r : RegNum) : (15 : Fin 17) = r.index ↔ r = 15 := by
  rw [eq_comm, RegNum_index_eq_pc]

@[simp] theorem lr_eq_RegNum_index (r : RegNum) : (14 : Fin 17) = r.index ↔ r = 14 := by
  rw [eq_comm, RegNum_index_eq_lr]

@[simp] theorem State.cpsr_writeReg_cpsr (s : State) (v : Word) : (s.writeReg 16 v).cpsr = v := by
  simp [State.cpsr]

/-- N as a flag write sets it: the sign of the result (10_state.md R33). -/
theorem sign_eq_getLsbD (r : Word) : decide (2 ^ 31 ≤ r.toNat) = r.getLsbD 31 := by
  have h := BitVec.msb_eq_getLsbD_last r
  rw [BitVec.msb_eq_decide] at h
  simpa using h

/-- Z as a flag write sets it: whether the result is 0 (10_state.md R33). -/
theorem zero_eq_toNat (r : Word) : decide (r.toNat = 0) = decide (r = 0) := by
  simp [BitVec.toNat_eq]

/-! ### The executors -/

/-- What the data-processing executor does: `Rd` unless a compare, the CPSR when the flags are written,
the result bit. -/
theorem dataProcessing_eq (op : DpOp) (sBit : Bool) (rn rd : RegNum) (b : Word) (s : State) :
    dataProcessing op sBit rn rd b s =
      (let r := alu op (s.readReg rn.index) b s.cFlag
       let u := if op.isCompare then s else s.writeReg rd.index r.result
       let v := if sBit || op.isCompare then u.writeReg 16 (flagsOf r s.cpsr) else u
       v.succeed) := by
  unfold dataProcessing
  cases hc : op.isCompare <;> cases sBit <;> simp [setFlags_eq]

/-- What a load does: in range the loaded register and then the base when post-indexed, else a failure
and nothing else. -/
theorem load_eq (w : Width) (pre up : Bool) (rn rd : RegNum) (offset : Word) (s : State) :
    load w pre up rn rd offset s =
      (let index := indexValue up (s.readReg rn.index) offset
       let addr := accessAddr pre (s.readReg rn.index) index
       if s.inRange addr w then
         let u := s.writeReg rd.index (s.memRead addr w)
         (if pre then u else u.writeReg rn.index index).succeed
       else s.fail .accessOutOfRange) := rfl

/-- What a store does: in range the stored bytes and then the base when post-indexed, else a failure
and nothing else. -/
theorem store_eq (w : Width) (pre up : Bool) (rn rd : RegNum) (offset : Word) (s : State) :
    store w pre up rn rd offset s =
      (let index := indexValue up (s.readReg rn.index) offset
       let addr := accessAddr pre (s.readReg rn.index) index
       if s.inRange addr w then
         let u := s.memWrite addr w (s.readReg rd.index)
         (if pre then u else u.writeReg rn.index index).succeed
       else s.fail .accessOutOfRange) := rfl

/-- What a branch does. -/
theorem branch_eq (link : Bool) (imm24 : BitVec 24) (s : State) :
    branch link imm24 s =
      (let u := if link then s.writeReg 14 (s.pc + 4#32) else s
       (u.writeReg 15 (s.pc + 8#32 + branchOffset imm24)).succeed) := rfl

/-! ### Dispatch by formats -/

/-- The load or store of an operation. -/
def access (op : LsOp) (pre up : Bool) (rn rd : RegNum) (offset : Word) (s : State) : State :=
  match op with
  | .ldr => load .word pre up rn rd offset s
  | .ldrb => load .byte pre up rn rd offset s
  | .str => store .word pre up rn rd offset s
  | .strb => store .byte pre up rn rd offset s

/-- The meaning of an instruction by its format and fields. -/
def runForm (f : Form) (s : State) : Outcome :=
  match f with
  | .dpRsi op c sBit rn rd n t rm => whenPasses c s fun s => dataProcessing op sBit rn rd (s.operand2Rsi n t rm) s
  | .dpRsr op c sBit rn rd rs _ t rm =>
    whenPasses c s fun s => dataProcessing op sBit rn rd (s.operand2Rsr rs t rm) s
  | .lsImm op pre c u _ rn rd n => whenPasses c s fun s => access op pre u rn rd (immOffset n) s
  | .lsReg op _ pre c u _ rn rd _ rm => whenPasses c s fun s => access op pre u rn rd (s.regOffset rm) s
  | .br link c _ k => whenPasses c s fun s => branch link k s
  | .none c _ => execIllegal c s

/-- The fifty-nine arms of `exec` are six formats. -/
theorem exec_eq_runForm (i : Instr) (s : State) : exec i s = runForm i.toForm s := by
  cases i <;> rfl

/-- The format and fields of the instruction of a format are that format and those fields. -/
theorem toForm_ofForm (f : Form) : (Instr.ofForm f).toForm = f := by
  cases f with
  | dpRsi op => cases op <;> rfl
  | dpRsr op => cases op <;> rfl
  | lsImm op pre => cases op <;> cases pre <;> rfl
  | lsReg op aliased pre => cases op <;> cases aliased <;> cases pre <;> rfl
  | br link => cases link <;> rfl
  | none => rfl

/-- Executing a word is running its decoded format. -/
theorem exec_decode (w : Word) (s : State) : exec (decode w) s = runForm (Form.decode w) s := by
  rw [exec_eq_runForm, decode, toForm_ofForm]

end Sys2Proof.Machine
end

