-- ==== Sys2Proof/Laws/Exec.lean ====
section
/-! SUPPORT. What one instruction and one step can do, said once: the effect behind a passed condition,
the frame every executor keeps, and the cases of a step. -/

namespace Sys2Proof.Machine

/-! ### An instruction -/

/-- The condition of a format. -/
def formCond (f : Form) : Cond :=
  match f with
  | .dpRsi _ c _ _ _ _ _ _ => c
  | .dpRsr _ c _ _ _ _ _ _ _ => c
  | .lsImm _ _ c _ _ _ _ _ => c
  | .lsReg _ _ _ c _ _ _ _ _ _ => c
  | .br _ c _ _ => c
  | .none c _ => c

theorem cond_eq_formCond (i : Instr) : i.cond = formCond i.toForm := by
  cases i <;> rfl

/-- What an instruction of a format does when its condition passes. -/
def effect (f : Form) (s : State) : State :=
  match f with
  | .dpRsi op _ sBit rn rd n t rm => dataProcessing op sBit rn rd (s.operand2Rsi n t rm) s
  | .dpRsr op _ sBit rn rd rs _ t rm => dataProcessing op sBit rn rd (s.operand2Rsr rs t rm) s
  | .lsImm op pre _ u _ rn rd n => access op pre u rn rd (immOffset n) s
  | .lsReg op _ pre _ u _ rn rd _ rm => access op pre u rn rd (s.regOffset rm) s
  | .br link _ _ k => branch link k s
  | .none _ _ => s.fail .illegalInstruction

theorem exec_of_pass {i : Instr} {s : State} (h : s.condPass i.cond = true) :
    exec i s = .next (effect i.toForm s) := by
  rw [cond_eq_formCond] at h
  rw [exec_eq_runForm]
  cases hf : i.toForm <;> rw [hf] at h <;> simp only [formCond] at h <;>
    simp [runForm, effect, whenPasses, execIllegal, h]

theorem exec_of_skip {i : Instr} {s : State} (h : s.condPass i.cond = false)
    (hi : s.params.illegalBeforeCond = false) : exec i s = .next s.succeed := by
  rw [cond_eq_formCond] at h
  rw [exec_eq_runForm]
  cases hf : i.toForm <;> rw [hf] at h <;> simp only [formCond] at h <;>
    simp [runForm, whenPasses, execIllegal, h, hi]

/-- Everything an instruction can do: its effect when the condition passes, nothing when it does not,
and the failure of an illegal word that is tested before its condition. -/
theorem exec_cases (i : Instr) (s : State) :
    (s.condPass i.cond = true ∧ exec i s = .next (effect i.toForm s)) ∨
    (s.condPass i.cond = false ∧ exec i s = .next s.succeed) ∨
    (s.condPass i.cond = false ∧ s.params.illegalBeforeCond = true ∧ (∃ c g, i.toForm = .none c g) ∧
      exec i s = .next (s.fail .illegalInstruction)) := by
  cases h : s.condPass i.cond with
  | true => exact .inl ⟨rfl, exec_of_pass h⟩
  | false =>
    cases hi : s.params.illegalBeforeCond with
    | false => exact .inr (.inl ⟨rfl, exec_of_skip h hi⟩)
    | true =>
      have h' := h
      rw [cond_eq_formCond] at h'
      rw [exec_eq_runForm]
      cases hf : i.toForm <;> rw [hf] at h' <;> simp only [formCond] at h' <;>
        simp [runForm, whenPasses, execIllegal, h', hi]

/-! ### The frame of the executors -/

/-- What an executor, a skip or a failure keeps. -/
structure Kept (s t : State) : Prop where
  memSize : t.memSize = s.memSize
  cap : t.cap = s.cap
  icount : t.icount = s.icount
  initialized : t.initialized = s.initialized
  params : t.params = s.params
  requests : t.requests = s.requests
  batch : t.batch = s.batch
  reply : t.reply = s.reply
  mirrored : s.Mirrored → t.Mirrored
  memWf : Memory.wf s.mem = true → Memory.wf t.mem = true
  memBelow : s.initialized = true → Memory.below s.memSize s.mem = true → Memory.below s.memSize t.mem = true

theorem mirrored_writeReg {s : State} (h : s.Mirrored) (i : Fin 17) (v : Word) : (s.writeReg i v).Mirrored := by
  obtain ⟨h1, h2, h3⟩ := h
  refine ⟨?_, ?_, ?_⟩ <;> simp_all

theorem kept_succeed (s : State) : Kept s s.succeed := by
  constructor <;> first | rfl | (intros; assumption)

theorem kept_fail (s : State) (c : Cause) : Kept s (s.fail c) := by
  constructor <;> first | rfl | (intros; assumption)

theorem Kept.trans {s t u : State} (h : Kept s t) (k : Kept t u) : Kept s u where
  memSize := k.memSize.trans h.memSize
  cap := k.cap.trans h.cap
  icount := k.icount.trans h.icount
  initialized := k.initialized.trans h.initialized
  params := k.params.trans h.params
  requests := k.requests.trans h.requests
  batch := k.batch.trans h.batch
  reply := k.reply.trans h.reply
  mirrored hs := k.mirrored (h.mirrored hs)
  memWf hs := k.memWf (h.memWf hs)
  memBelow hi hs := by
    have := k.memBelow (h.initialized.trans hi)
    rw [h.memSize] at this
    exact this (h.memBelow hi hs)

theorem kept_writeReg (s : State) (i : Fin 17) (v : Word) : Kept s (s.writeReg i v) := by
  constructor <;> first | rfl | exact (mirrored_writeReg · _ _) | (intros; assumption)

theorem kept_memWrite (s : State) (addr : Word) (w : Width) (v : Word) (h : addr.toNat + w.bytes ≤ s.memSize) :
    Kept s (s.memWrite addr w v) := by
  constructor <;> first
    | rfl
    | exact fun hm => Memory.wf_writeBytes _ _ hm
    | exact fun _ hm => Memory.below_writeBytes _ (by simpa using h) hm
    | (intros; assumption)

theorem kept_dataProcessing (op : DpOp) (sBit : Bool) (rn rd : RegNum) (b : Word) (s : State) :
    Kept s (dataProcessing op sBit rn rd b s) := by
  rw [dataProcessing_eq]
  dsimp only
  refine Kept.trans ?_ (kept_succeed _)
  have h1 : Kept s (if op.isCompare then s else s.writeReg rd.index (alu op (s.readReg rn.index) b s.cFlag).result) := by
    split
    · constructor <;> first | rfl | (intros; assumption)
    · exact kept_writeReg _ _ _
  split
  · exact h1.trans (kept_writeReg _ _ _)
  · exact h1

theorem kept_load (w : Width) (pre up : Bool) (rn rd : RegNum) (offset : Word) (s : State) :
    Kept s (load w pre up rn rd offset s) := by
  rw [load_eq]
  dsimp only
  split
  · refine Kept.trans ?_ (kept_succeed _)
    split
    · exact kept_writeReg _ _ _
    · exact (kept_writeReg _ _ _).trans (kept_writeReg _ _ _)
  · exact kept_fail _ _

/-- An access in range ends at or below `MEM_SIZE`, on an initialized engine. -/
theorem State.inRange_iff (s : State) (addr : Word) (w : Width) :
    s.inRange addr w = true ↔ s.initialized = true ∧ addr.toNat + w.bytes ≤ s.memSize := by
  simp [State.inRange]

theorem kept_store (w : Width) (pre up : Bool) (rn rd : RegNum) (offset : Word) (s : State) :
    Kept s (store w pre up rn rd offset s) := by
  rw [store_eq]
  dsimp only
  split
  · rename_i h
    rw [State.inRange_iff] at h
    refine Kept.trans ?_ (kept_succeed _)
    split
    · exact kept_memWrite _ _ _ _ h.2
    · exact (kept_memWrite _ _ _ _ h.2).trans (kept_writeReg _ _ _)
  · exact kept_fail _ _

theorem kept_branch (link : Bool) (k : BitVec 24) (s : State) : Kept s (branch link k s) := by
  rw [branch_eq]
  dsimp only
  refine Kept.trans ?_ (kept_succeed _)
  split
  · exact (kept_writeReg _ 14 _).trans (kept_writeReg _ 15 _)
  · exact kept_writeReg _ 15 _

theorem kept_effect (f : Form) (s : State) : Kept s (effect f s) := by
  cases f with
  | dpRsi => exact kept_dataProcessing ..
  | dpRsr => exact kept_dataProcessing ..
  | lsImm op => cases op <;> first | exact kept_load .. | exact kept_store ..
  | lsReg op => cases op <;> first | exact kept_load .. | exact kept_store ..
  | br => exact kept_branch ..
  | none => exact kept_fail _ _

/-- Every instruction answers a next state that keeps what `Kept` says. -/
theorem exec_kept (i : Instr) (s : State) : ∃ t, exec i s = .next t ∧ Kept s t := by
  rcases exec_cases i s with ⟨_, h⟩ | ⟨_, h⟩ | ⟨_, _, _, h⟩
  · exact ⟨_, h, kept_effect _ _⟩
  · exact ⟨_, h, kept_succeed _⟩
  · exact ⟨_, h, kept_fail _ _⟩

/-! ### A word -/

/-- Running a word answers a next state that keeps what `Kept` says. -/
theorem runWord_kept (w : Word) (s : State) : ∃ t, runWord w s = .next t ∧ Kept s t := by
  unfold runWord
  split
  · unfold execDataProcImm whenPasses
    split
    · exact ⟨_, rfl, kept_dataProcessing ..⟩
    · exact ⟨_, rfl, kept_succeed _⟩
  · exact exec_kept _ _

/-- Everything an instruction step can do: on an initialized engine it counts and runs the word, else it
fails (40_decode_condition.md R100, R101). -/
theorem stepWord_cases (w : Word) (s : State) :
    (s.initialized = true ∧ ∃ t, stepWord w s = .next t ∧ runWord w s.countStep = .next t ∧ Kept s.countStep t) ∨
    (s.initialized = false ∧ stepWord w s = .next (s.fail .uninitialized)) := by
  cases h : s.initialized with
  | true =>
    obtain ⟨t, ht, hk⟩ := runWord_kept w s.countStep
    exact .inl ⟨rfl, t, by simp [stepWord, h, ht], ht, hk⟩
  | false => exact .inr ⟨rfl, by simp [stepWord, h]⟩

/-! ### The batch in progress -/

/-- The state with another batch in progress. -/
def State.withBatch (b : Option Batch) (s : State) : State := { s with batch := b }

theorem condPass_withBatch (b : Option Batch) (s : State) (c : Cond) : (s.withBatch b).condPass c = s.condPass c := by
  cases c <;> rfl

theorem readReg_withBatch (b : Option Batch) (s : State) (i : Fin 17) : (s.withBatch b).readReg i = s.readReg i := rfl

theorem operand2Rsi_withBatch (b : Option Batch) (s : State) (n : Nat) (t : ShiftType) (rm : RegNum) :
    (s.withBatch b).operand2Rsi n t rm = s.operand2Rsi n t rm := by
  simp only [State.operand2Rsi, readReg_withBatch]
  rfl

theorem operand2Rsr_withBatch (b : Option Batch) (s : State) (rs : RegNum) (t : ShiftType) (rm : RegNum) :
    (s.withBatch b).operand2Rsr rs t rm = s.operand2Rsr rs t rm := by
  simp only [State.operand2Rsr, readReg_withBatch]
  rfl

theorem regOffset_withBatch (b : Option Batch) (s : State) (rm : RegNum) :
    (s.withBatch b).regOffset rm = s.regOffset rm := rfl

theorem dataProcessing_withBatch (op : DpOp) (sBit : Bool) (rn rd : RegNum) (v : Word) (b : Option Batch) (s : State) :
    dataProcessing op sBit rn rd v (s.withBatch b) = (dataProcessing op sBit rn rd v s).withBatch b := by
  cases op <;> cases sBit <;> rfl

theorem load_withBatch (w : Width) (pre up : Bool) (rn rd : RegNum) (offset : Word) (b : Option Batch) (s : State) :
    load w pre up rn rd offset (s.withBatch b) = (load w pre up rn rd offset s).withBatch b := by
  rw [load_eq, load_eq]
  dsimp only
  rw [apply_ite (State.withBatch b)]
  cases pre <;> rfl

theorem store_withBatch (w : Width) (pre up : Bool) (rn rd : RegNum) (offset : Word) (b : Option Batch) (s : State) :
    store w pre up rn rd offset (s.withBatch b) = (store w pre up rn rd offset s).withBatch b := by
  rw [store_eq, store_eq]
  dsimp only
  rw [apply_ite (State.withBatch b)]
  cases pre <;> rfl

theorem access_withBatch (op : LsOp) (pre up : Bool) (rn rd : RegNum) (offset : Word) (b : Option Batch) (s : State) :
    access op pre up rn rd offset (s.withBatch b) = (access op pre up rn rd offset s).withBatch b := by
  cases op <;> first | exact load_withBatch .. | exact store_withBatch ..

theorem whenPasses_withBatch {f : State → State} {b : Option Batch} {s : State}
    (h : f (s.withBatch b) = (f s).withBatch b) (c : Cond) :
    whenPasses c (s.withBatch b) f = mapNext (State.withBatch b) (whenPasses c s f) := by
  simp only [whenPasses, condPass_withBatch, mapNext]
  split
  · rw [h]
  · rfl

theorem branch_withBatch (link : Bool) (k : BitVec 24) (b : Option Batch) (s : State) :
    branch link k (s.withBatch b) = (branch link k s).withBatch b := by
  cases link <;> rfl

theorem execIllegal_withBatch (c : Cond) (b : Option Batch) (s : State) :
    execIllegal c (s.withBatch b) = mapNext (State.withBatch b) (execIllegal c s) := by
  have h := whenPasses_withBatch (b := b) (s := s) (f := fun s => s.fail .illegalInstruction) rfl c
  cases hp : s.params.illegalBeforeCond with
  | true => simp only [execIllegal, State.withBatch, hp]; rfl
  | false =>
    have hp' : (s.withBatch b).params.illegalBeforeCond = false := hp
    simpa only [execIllegal, hp, hp', Bool.false_eq_true, if_false] using h

theorem runForm_withBatch (f : Form) (b : Option Batch) (s : State) :
    runForm f (s.withBatch b) = mapNext (State.withBatch b) (runForm f s) := by
  cases f <;> simp only [runForm]
  case dpRsi => exact whenPasses_withBatch (by rw [operand2Rsi_withBatch, dataProcessing_withBatch]) _
  case dpRsr => exact whenPasses_withBatch (by rw [operand2Rsr_withBatch, dataProcessing_withBatch]) _
  case lsImm => exact whenPasses_withBatch (access_withBatch ..) _
  case lsReg => exact whenPasses_withBatch (by rw [regOffset_withBatch, access_withBatch]) _
  case br => exact whenPasses_withBatch (branch_withBatch ..) _
  case none => exact execIllegal_withBatch ..

/-- An instruction reads and writes nothing of the batch in progress. -/
theorem exec_withBatch (i : Instr) (b : Option Batch) (s : State) :
    exec i (s.withBatch b) = mapNext (State.withBatch b) (exec i s) := by
  rw [exec_eq_runForm, exec_eq_runForm, runForm_withBatch]

/-- Running a word reads and writes nothing of the batch in progress. -/
theorem runWord_withBatch (w : Word) (b : Option Batch) (s : State) :
    runWord w (s.withBatch b) = mapNext (State.withBatch b) (runWord w s) := by
  have hp : (s.withBatch b).params = s.params := rfl
  have h : execDataProcImm (decodeDpImm w) (s.withBatch b) =
      mapNext (State.withBatch b) (execDataProcImm (decodeDpImm w) s) :=
    whenPasses_withBatch (dataProcessing_withBatch ..) _
  simp only [runWord, hp]
  cases s.params.decode001 <;> cases isWord001 w <;> simp only [exec_withBatch, h]

/-- An instruction step reads and writes nothing of the batch in progress, so that the words of a batch
do what single words do (50_host_interface.md R244). -/
theorem stepWord_withBatch (w : Word) (b : Option Batch) (s : State) :
    stepWord w (s.withBatch b) = mapNext (State.withBatch b) (stepWord w s) := by
  unfold stepWord
  rw [apply_ite (mapNext (State.withBatch b)), ← runWord_withBatch]
  rfl

/-! ### Runs -/

/-- A run whose first step answers `t` goes on from `t`. -/
theorem run_succ {n : Nat} {s t : State} (h : step s = .next t) : core.run (n + 1) s = core.run n t := by
  have h' : core.step s = .next t := h
  simp only [Host.Core.run, h']

theorem run_zero (s : State) : core.run 0 s = .next s := rfl

/-! ### Growing the capacity -/

/-- Growth never shrinks the capacity. -/
theorem le_growCapacity (fuel cap limit : Nat) : cap ≤ growCapacity fuel cap limit := by
  induction fuel generalizing cap with
  | zero => exact Nat.le_refl _
  | succ n ih =>
    unfold growCapacity
    split
    · exact Nat.le_refl _
    · have := ih (2 * cap)
      omega

/-- Growth doubles the capacity the fewest times that hold the limit. -/
theorem growCapacity_eq (fuel k cap limit : Nat) (hk : k ≤ fuel) (h : limit ≤ 2 ^ k * cap)
    (hmin : ∀ j < k, 2 ^ j * cap < limit) : growCapacity fuel cap limit = 2 ^ k * cap := by
  induction k generalizing fuel cap with
  | zero =>
    cases fuel with
    | zero => simp [growCapacity]
    | succ n =>
      have : limit ≤ cap := by simpa using h
      simp [growCapacity, this]
  | succ k ih =>
    cases fuel with
    | zero => omega
    | succ n =>
      have h0 := hmin 0 (Nat.succ_pos k)
      have hlt : ¬ limit ≤ cap := by simpa using h0
      unfold growCapacity
      rw [if_neg hlt, ih n (2 * cap) (by omega) (by rw [← Nat.mul_assoc, ← Nat.pow_succ]; exact h) ?_]
      · rw [← Nat.mul_assoc, ← Nat.pow_succ]
      · intro j hj
        have := hmin (j + 1) (by omega)
        rw [Nat.pow_succ, Nat.mul_assoc] at this
        exact this

/-- The capacity a write up to `limit` grows to: no fuel in sight, from 1 byte up and to at most 2^32. -/
theorem grownCapacity_eq (k cap limit : Nat) (hc : 1 ≤ cap) (h : limit ≤ 2 ^ k * cap)
    (hmin : ∀ j < k, 2 ^ j * cap < limit) (hmax : 2 ^ k * cap ≤ 2 ^ 32) : grownCapacity cap limit = 2 ^ k * cap := by
  refine growCapacity_eq 33 k cap limit ?_ h hmin
  have h1 : 2 ^ k * 1 ≤ 2 ^ k * cap := Nat.mul_le_mul_left _ hc
  have h2 : 2 ^ k ≤ 2 ^ 32 := by omega
  have := (Nat.pow_le_pow_iff_right (by decide : 1 < 2)).1 h2
  omega

theorem le_grownCapacity (cap limit : Nat) : cap ≤ grownCapacity cap limit := le_growCapacity 33 cap limit

theorem grownCapacity_of_le {cap limit : Nat} (h : limit ≤ cap) : grownCapacity cap limit = cap := by
  unfold grownCapacity growCapacity
  rw [if_pos h]

end Sys2Proof.Machine
end

