-- ==== Sys2Proof/Laws/PerInstr.lean ====
section
/-! SUPPORT. Facts about every instruction as syntax, one lemma per constructor. -/

namespace Sys2Proof.Laws.FormRoundTrip

/-- Taking an instruction to its format and fields and back gives it again: no field is lost or
exchanged. -/
def Statement (i : Instr) : Prop := Instr.ofForm i.toForm = i

theorem andRsi : ∀ (cond : Cond) (sBit : Bool) (rn rd : RegNum) (shamt5 : Nat) (shift : ShiftType) (rm : RegNum),
    Statement (.andRsi cond sBit rn rd shamt5 shift rm) := by
  intros; rfl

theorem andRsr : ∀ (cond : Cond) (sBit : Bool) (rn rd rs : RegNum) (ignored7 : Bool) (shift : ShiftType) (rm : RegNum),
    Statement (.andRsr cond sBit rn rd rs ignored7 shift rm) := by
  intros; rfl

theorem eorRsi : ∀ (cond : Cond) (sBit : Bool) (rn rd : RegNum) (shamt5 : Nat) (shift : ShiftType) (rm : RegNum),
    Statement (.eorRsi cond sBit rn rd shamt5 shift rm) := by
  intros; rfl

theorem eorRsr : ∀ (cond : Cond) (sBit : Bool) (rn rd rs : RegNum) (ignored7 : Bool) (shift : ShiftType) (rm : RegNum),
    Statement (.eorRsr cond sBit rn rd rs ignored7 shift rm) := by
  intros; rfl

theorem subRsi : ∀ (cond : Cond) (sBit : Bool) (rn rd : RegNum) (shamt5 : Nat) (shift : ShiftType) (rm : RegNum),
    Statement (.subRsi cond sBit rn rd shamt5 shift rm) := by
  intros; rfl

theorem subRsr : ∀ (cond : Cond) (sBit : Bool) (rn rd rs : RegNum) (ignored7 : Bool) (shift : ShiftType) (rm : RegNum),
    Statement (.subRsr cond sBit rn rd rs ignored7 shift rm) := by
  intros; rfl

theorem rsbRsi : ∀ (cond : Cond) (sBit : Bool) (rn rd : RegNum) (shamt5 : Nat) (shift : ShiftType) (rm : RegNum),
    Statement (.rsbRsi cond sBit rn rd shamt5 shift rm) := by
  intros; rfl

theorem rsbRsr : ∀ (cond : Cond) (sBit : Bool) (rn rd rs : RegNum) (ignored7 : Bool) (shift : ShiftType) (rm : RegNum),
    Statement (.rsbRsr cond sBit rn rd rs ignored7 shift rm) := by
  intros; rfl

theorem addRsi : ∀ (cond : Cond) (sBit : Bool) (rn rd : RegNum) (shamt5 : Nat) (shift : ShiftType) (rm : RegNum),
    Statement (.addRsi cond sBit rn rd shamt5 shift rm) := by
  intros; rfl

theorem addRsr : ∀ (cond : Cond) (sBit : Bool) (rn rd rs : RegNum) (ignored7 : Bool) (shift : ShiftType) (rm : RegNum),
    Statement (.addRsr cond sBit rn rd rs ignored7 shift rm) := by
  intros; rfl

theorem adcRsi : ∀ (cond : Cond) (sBit : Bool) (rn rd : RegNum) (shamt5 : Nat) (shift : ShiftType) (rm : RegNum),
    Statement (.adcRsi cond sBit rn rd shamt5 shift rm) := by
  intros; rfl

theorem adcRsr : ∀ (cond : Cond) (sBit : Bool) (rn rd rs : RegNum) (ignored7 : Bool) (shift : ShiftType) (rm : RegNum),
    Statement (.adcRsr cond sBit rn rd rs ignored7 shift rm) := by
  intros; rfl

theorem sbcRsi : ∀ (cond : Cond) (sBit : Bool) (rn rd : RegNum) (shamt5 : Nat) (shift : ShiftType) (rm : RegNum),
    Statement (.sbcRsi cond sBit rn rd shamt5 shift rm) := by
  intros; rfl

theorem sbcRsr : ∀ (cond : Cond) (sBit : Bool) (rn rd rs : RegNum) (ignored7 : Bool) (shift : ShiftType) (rm : RegNum),
    Statement (.sbcRsr cond sBit rn rd rs ignored7 shift rm) := by
  intros; rfl

theorem rscRsi : ∀ (cond : Cond) (sBit : Bool) (rn rd : RegNum) (shamt5 : Nat) (shift : ShiftType) (rm : RegNum),
    Statement (.rscRsi cond sBit rn rd shamt5 shift rm) := by
  intros; rfl

theorem rscRsr : ∀ (cond : Cond) (sBit : Bool) (rn rd rs : RegNum) (ignored7 : Bool) (shift : ShiftType) (rm : RegNum),
    Statement (.rscRsr cond sBit rn rd rs ignored7 shift rm) := by
  intros; rfl

theorem tstRsi : ∀ (cond : Cond) (sBit : Bool) (rn rd : RegNum) (shamt5 : Nat) (shift : ShiftType) (rm : RegNum),
    Statement (.tstRsi cond sBit rn rd shamt5 shift rm) := by
  intros; rfl

theorem tstRsr : ∀ (cond : Cond) (sBit : Bool) (rn rd rs : RegNum) (ignored7 : Bool) (shift : ShiftType) (rm : RegNum),
    Statement (.tstRsr cond sBit rn rd rs ignored7 shift rm) := by
  intros; rfl

theorem teqRsi : ∀ (cond : Cond) (sBit : Bool) (rn rd : RegNum) (shamt5 : Nat) (shift : ShiftType) (rm : RegNum),
    Statement (.teqRsi cond sBit rn rd shamt5 shift rm) := by
  intros; rfl

theorem teqRsr : ∀ (cond : Cond) (sBit : Bool) (rn rd rs : RegNum) (ignored7 : Bool) (shift : ShiftType) (rm : RegNum),
    Statement (.teqRsr cond sBit rn rd rs ignored7 shift rm) := by
  intros; rfl

theorem cmpRsi : ∀ (cond : Cond) (sBit : Bool) (rn rd : RegNum) (shamt5 : Nat) (shift : ShiftType) (rm : RegNum),
    Statement (.cmpRsi cond sBit rn rd shamt5 shift rm) := by
  intros; rfl

theorem cmpRsr : ∀ (cond : Cond) (sBit : Bool) (rn rd rs : RegNum) (ignored7 : Bool) (shift : ShiftType) (rm : RegNum),
    Statement (.cmpRsr cond sBit rn rd rs ignored7 shift rm) := by
  intros; rfl

theorem cmnRsi : ∀ (cond : Cond) (sBit : Bool) (rn rd : RegNum) (shamt5 : Nat) (shift : ShiftType) (rm : RegNum),
    Statement (.cmnRsi cond sBit rn rd shamt5 shift rm) := by
  intros; rfl

theorem cmnRsr : ∀ (cond : Cond) (sBit : Bool) (rn rd rs : RegNum) (ignored7 : Bool) (shift : ShiftType) (rm : RegNum),
    Statement (.cmnRsr cond sBit rn rd rs ignored7 shift rm) := by
  intros; rfl

theorem orrRsi : ∀ (cond : Cond) (sBit : Bool) (rn rd : RegNum) (shamt5 : Nat) (shift : ShiftType) (rm : RegNum),
    Statement (.orrRsi cond sBit rn rd shamt5 shift rm) := by
  intros; rfl

theorem orrRsr : ∀ (cond : Cond) (sBit : Bool) (rn rd rs : RegNum) (ignored7 : Bool) (shift : ShiftType) (rm : RegNum),
    Statement (.orrRsr cond sBit rn rd rs ignored7 shift rm) := by
  intros; rfl

theorem movRsi : ∀ (cond : Cond) (sBit : Bool) (rn rd : RegNum) (shamt5 : Nat) (shift : ShiftType) (rm : RegNum),
    Statement (.movRsi cond sBit rn rd shamt5 shift rm) := by
  intros; rfl

theorem movRsr : ∀ (cond : Cond) (sBit : Bool) (rn rd rs : RegNum) (ignored7 : Bool) (shift : ShiftType) (rm : RegNum),
    Statement (.movRsr cond sBit rn rd rs ignored7 shift rm) := by
  intros; rfl

theorem bicRsi : ∀ (cond : Cond) (sBit : Bool) (rn rd : RegNum) (shamt5 : Nat) (shift : ShiftType) (rm : RegNum),
    Statement (.bicRsi cond sBit rn rd shamt5 shift rm) := by
  intros; rfl

theorem bicRsr : ∀ (cond : Cond) (sBit : Bool) (rn rd rs : RegNum) (ignored7 : Bool) (shift : ShiftType) (rm : RegNum),
    Statement (.bicRsr cond sBit rn rd rs ignored7 shift rm) := by
  intros; rfl

theorem mvnRsi : ∀ (cond : Cond) (sBit : Bool) (rn rd : RegNum) (shamt5 : Nat) (shift : ShiftType) (rm : RegNum),
    Statement (.mvnRsi cond sBit rn rd shamt5 shift rm) := by
  intros; rfl

theorem mvnRsr : ∀ (cond : Cond) (sBit : Bool) (rn rd rs : RegNum) (ignored7 : Bool) (shift : ShiftType) (rm : RegNum),
    Statement (.mvnRsr cond sBit rn rd rs ignored7 shift rm) := by
  intros; rfl

theorem ldrImmPre : ∀ (cond : Cond) (u ignored21 : Bool) (rn rd : RegNum) (imm12 : Nat),
    Statement (.ldrImmPre cond u ignored21 rn rd imm12) := by
  intros; rfl

theorem ldrbImmPre : ∀ (cond : Cond) (u ignored21 : Bool) (rn rd : RegNum) (imm12 : Nat),
    Statement (.ldrbImmPre cond u ignored21 rn rd imm12) := by
  intros; rfl

theorem strImmPre : ∀ (cond : Cond) (u ignored21 : Bool) (rn rd : RegNum) (imm12 : Nat),
    Statement (.strImmPre cond u ignored21 rn rd imm12) := by
  intros; rfl

theorem strbImmPre : ∀ (cond : Cond) (u ignored21 : Bool) (rn rd : RegNum) (imm12 : Nat),
    Statement (.strbImmPre cond u ignored21 rn rd imm12) := by
  intros; rfl

theorem ldrImmPost : ∀ (cond : Cond) (u ignored21 : Bool) (rn rd : RegNum) (imm12 : Nat),
    Statement (.ldrImmPost cond u ignored21 rn rd imm12) := by
  intros; rfl

theorem ldrbImmPost : ∀ (cond : Cond) (u ignored21 : Bool) (rn rd : RegNum) (imm12 : Nat),
    Statement (.ldrbImmPost cond u ignored21 rn rd imm12) := by
  intros; rfl

theorem strImmPost : ∀ (cond : Cond) (u ignored21 : Bool) (rn rd : RegNum) (imm12 : Nat),
    Statement (.strImmPost cond u ignored21 rn rd imm12) := by
  intros; rfl

theorem strbImmPost : ∀ (cond : Cond) (u ignored21 : Bool) (rn rd : RegNum) (imm12 : Nat),
    Statement (.strbImmPost cond u ignored21 rn rd imm12) := by
  intros; rfl

theorem ldrRegPre : ∀ (cond : Cond) (u ignored21 : Bool) (rn rd : RegNum) (ignored11to4 : BitVec 8) (rm : RegNum),
    Statement (.ldrRegPre cond u ignored21 rn rd ignored11to4 rm) := by
  intros; rfl

theorem ldrbRegPre : ∀ (cond : Cond) (u ignored21 : Bool) (rn rd : RegNum) (ignored11to4 : BitVec 8) (rm : RegNum),
    Statement (.ldrbRegPre cond u ignored21 rn rd ignored11to4 rm) := by
  intros; rfl

theorem strRegPre : ∀ (cond : Cond) (u ignored21 : Bool) (rn rd : RegNum) (ignored11to4 : BitVec 8) (rm : RegNum),
    Statement (.strRegPre cond u ignored21 rn rd ignored11to4 rm) := by
  intros; rfl

theorem strbRegPre : ∀ (cond : Cond) (u ignored21 : Bool) (rn rd : RegNum) (ignored11to4 : BitVec 8) (rm : RegNum),
    Statement (.strbRegPre cond u ignored21 rn rd ignored11to4 rm) := by
  intros; rfl

theorem ldrRegPost : ∀ (cond : Cond) (u ignored21 : Bool) (rn rd : RegNum) (ignored11to4 : BitVec 8) (rm : RegNum),
    Statement (.ldrRegPost cond u ignored21 rn rd ignored11to4 rm) := by
  intros; rfl

theorem ldrbRegPost : ∀ (cond : Cond) (u ignored21 : Bool) (rn rd : RegNum) (ignored11to4 : BitVec 8) (rm : RegNum),
    Statement (.ldrbRegPost cond u ignored21 rn rd ignored11to4 rm) := by
  intros; rfl

theorem strRegPost : ∀ (cond : Cond) (u ignored21 : Bool) (rn rd : RegNum) (ignored11to4 : BitVec 8) (rm : RegNum),
    Statement (.strRegPost cond u ignored21 rn rd ignored11to4 rm) := by
  intros; rfl

theorem strbRegPost : ∀ (cond : Cond) (u ignored21 : Bool) (rn rd : RegNum) (ignored11to4 : BitVec 8) (rm : RegNum),
    Statement (.strbRegPost cond u ignored21 rn rd ignored11to4 rm) := by
  intros; rfl

theorem ldrAlias001Pre : ∀ (cond : Cond) (u ignored21 : Bool) (rn rd : RegNum) (ignored11to4 : BitVec 8) (rm : RegNum),
    Statement (.ldrAlias001Pre cond u ignored21 rn rd ignored11to4 rm) := by
  intros; rfl

theorem ldrbAlias001Pre : ∀ (cond : Cond) (u ignored21 : Bool) (rn rd : RegNum) (ignored11to4 : BitVec 8) (rm : RegNum),
    Statement (.ldrbAlias001Pre cond u ignored21 rn rd ignored11to4 rm) := by
  intros; rfl

theorem strAlias001Pre : ∀ (cond : Cond) (u ignored21 : Bool) (rn rd : RegNum) (ignored11to4 : BitVec 8) (rm : RegNum),
    Statement (.strAlias001Pre cond u ignored21 rn rd ignored11to4 rm) := by
  intros; rfl

theorem strbAlias001Pre : ∀ (cond : Cond) (u ignored21 : Bool) (rn rd : RegNum) (ignored11to4 : BitVec 8) (rm : RegNum),
    Statement (.strbAlias001Pre cond u ignored21 rn rd ignored11to4 rm) := by
  intros; rfl

theorem ldrAlias001Post : ∀ (cond : Cond) (u ignored21 : Bool) (rn rd : RegNum) (ignored11to4 : BitVec 8) (rm : RegNum),
    Statement (.ldrAlias001Post cond u ignored21 rn rd ignored11to4 rm) := by
  intros; rfl

theorem ldrbAlias001Post : ∀ (cond : Cond) (u ignored21 : Bool) (rn rd : RegNum) (ignored11to4 : BitVec 8) (rm : RegNum),
    Statement (.ldrbAlias001Post cond u ignored21 rn rd ignored11to4 rm) := by
  intros; rfl

theorem strAlias001Post : ∀ (cond : Cond) (u ignored21 : Bool) (rn rd : RegNum) (ignored11to4 : BitVec 8) (rm : RegNum),
    Statement (.strAlias001Post cond u ignored21 rn rd ignored11to4 rm) := by
  intros; rfl

theorem strbAlias001Post : ∀ (cond : Cond) (u ignored21 : Bool) (rn rd : RegNum) (ignored11to4 : BitVec 8) (rm : RegNum),
    Statement (.strbAlias001Post cond u ignored21 rn rd ignored11to4 rm) := by
  intros; rfl

theorem b : ∀ (cond : Cond) (ignored25 : Bool) (imm24 : BitVec 24), Statement (.b cond ignored25 imm24) := by
  intros; rfl

theorem bl : ∀ (cond : Cond) (ignored25 : Bool) (imm24 : BitVec 24), Statement (.bl cond ignored25 imm24) := by
  intros; rfl

theorem illegal : ∀ (cond : Cond) (ignored25to0 : BitVec 26), Statement (.illegal cond ignored25to0) := by
  intros; rfl

end Sys2Proof.Laws.FormRoundTrip
end

