-- ==== Sys2Proof/Tests/Slice0.lean ====
section
/-! SUPPORT. The model's own tests: the well-formedness checks, a word of every constructor written out
from the tables of 30_encoding.md, vectors of 95_test_vectors.md, and for every statement of
Obligations.lean a state and operands that meet its hypotheses. -/

namespace Sys2Proof.Tests

open Sys2Proof.Machine Sys2Proof.Claims

/-! ### Well-formedness -/

theorem test_wellFormed_refuses_shamt5_32 : ¬ WellFormed (.addRsi .al false 1 2 32 .lsl 3) := by decide

theorem test_wellFormed_refuses_imm12_4096 : ¬ WellFormed (.ldrImmPre .al true false 1 2 4096) := by decide

/-! ### Decoding: the fields of each word from left to right, as 30_encoding.md R82, R83, R85 to R87
and R94 lay them out -/

theorem test_decode_and :
    decode 0b0000_000_0000_0_0001_0010_10011_00_0_0110#32 = .andRsi .eq false 1 2 19 .lsl 6 ∧
    decode 0b1111_000_0000_1_0010_0001_1001_0_11_1_0110#32 = .andRsr .nv true 2 1 9 false .ror 6 := by
  decide

theorem test_decode_eor :
    decode 0b0001_000_0001_1_0100_0111_11010_01_0_0001#32 = .eorRsi .ne true 4 7 26 .lsr 1 ∧
    decode 0b1110_000_0001_0_0111_0100_0110_0_10_1_0001#32 = .eorRsr .al false 7 4 6 false .asr 1 := by
  decide

theorem test_decode_sub :
    decode 0b0010_000_0010_0_0111_1100_00001_10_0_1100#32 = .subRsi .cs false 7 12 1 .asr 12 ∧
    decode 0b1101_000_0010_1_1100_0111_0011_1_01_1_1100#32 = .subRsr .le true 12 7 3 true .lsr 12 := by
  decide

theorem test_decode_rsb :
    decode 0b0011_000_0011_1_1010_0001_01000_11_0_0111#32 = .rsbRsi .cc true 10 1 8 .ror 7 ∧
    decode 0b1100_000_0011_0_0001_1010_0000_1_00_1_0111#32 = .rsbRsr .gt false 1 10 0 true .lsl 7 := by
  decide

theorem test_decode_add :
    decode 0b0100_000_0100_0_1101_0110_01111_00_0_0010#32 = .addRsi .mi false 13 6 15 .lsl 2 ∧
    decode 0b1011_000_0100_1_0110_1101_1101_0_11_1_0010#32 = .addRsr .lt true 6 13 13 false .ror 2 := by
  decide

theorem test_decode_adc :
    decode 0b0101_000_0101_1_0000_1011_10110_01_0_1101#32 = .adcRsi .pl true 0 11 22 .lsr 13 ∧
    decode 0b1010_000_0101_0_1011_0000_1010_0_10_1_1101#32 = .adcRsr .ge false 11 0 10 false .asr 13 := by
  decide

theorem test_decode_sbc :
    decode 0b0110_000_0110_0_0011_0000_11101_10_0_1000#32 = .sbcRsi .vs false 3 0 29 .asr 8 ∧
    decode 0b1001_000_0110_1_0000_0011_0111_1_01_1_1000#32 = .sbcRsr .ls true 0 3 7 true .lsr 8 := by
  decide

theorem test_decode_rsc :
    decode 0b0111_000_0111_1_0110_0101_00100_11_0_0011#32 = .rscRsi .vc true 6 5 4 .ror 3 ∧
    decode 0b1000_000_0111_0_0101_0110_0100_1_00_1_0011#32 = .rscRsr .hi false 5 6 4 true .lsl 3 := by
  decide

theorem test_decode_tst :
    decode 0b1000_000_1000_0_1001_1010_01011_00_0_1110#32 = .tstRsi .hi false 9 10 11 .lsl 14 ∧
    decode 0b0111_000_1000_1_1010_1001_0001_0_11_1_1110#32 = .tstRsr .vc true 10 9 1 false .ror 14 := by
  decide

theorem test_decode_teq :
    decode 0b1001_000_1001_1_1100_1111_10010_01_0_1001#32 = .teqRsi .ls true 12 15 18 .lsr 9 ∧
    decode 0b0110_000_1001_0_1111_1100_1110_0_10_1_1001#32 = .teqRsr .vs false 15 12 14 false .asr 9 := by
  decide

theorem test_decode_cmp :
    decode 0b1010_000_1010_0_1111_0100_11001_10_0_0100#32 = .cmpRsi .ge false 15 4 25 .asr 4 ∧
    decode 0b0101_000_1010_1_0100_1111_1011_1_01_1_0100#32 = .cmpRsr .pl true 4 15 11 true .lsr 4 := by
  decide

theorem test_decode_cmn :
    decode 0b1011_000_1011_1_0010_1001_00000_11_0_1111#32 = .cmnRsi .lt true 2 9 0 .ror 15 ∧
    decode 0b0100_000_1011_0_1001_0010_1000_1_00_1_1111#32 = .cmnRsr .mi false 9 2 8 true .lsl 15 := by
  decide

theorem test_decode_orr :
    decode 0b1100_000_1100_0_0101_1110_00111_00_0_1010#32 = .orrRsi .gt false 5 14 7 .lsl 10 ∧
    decode 0b0011_000_1100_1_1110_0101_0101_0_11_1_1010#32 = .orrRsr .cc true 14 5 5 false .ror 10 := by
  decide

theorem test_decode_mov :
    decode 0b1101_000_1101_1_1000_0011_01110_01_0_0101#32 = .movRsi .le true 8 3 14 .lsr 5 ∧
    decode 0b0010_000_1101_0_0011_1000_0010_0_10_1_0101#32 = .movRsr .cs false 3 8 2 false .asr 5 := by
  decide

theorem test_decode_bic :
    decode 0b1110_000_1110_0_1011_1000_10101_10_0_0000#32 = .bicRsi .al false 11 8 21 .asr 0 ∧
    decode 0b0001_000_1110_1_1000_1011_1111_1_01_1_0000#32 = .bicRsr .ne true 8 11 15 true .lsr 0 := by
  decide

theorem test_decode_mvn :
    decode 0b1111_000_1111_1_1110_1101_11100_11_0_1011#32 = .mvnRsi .nv true 14 13 28 .ror 11 ∧
    decode 0b0000_000_1111_0_1101_1110_1100_1_00_1_1011#32 = .mvnRsr .eq false 13 14 12 true .lsl 11 := by
  decide

theorem test_decode_ldr :
    decode 0b0011_010_1_1_0_0_1_0110_1001_101001100110#32 = .ldrImmPre .cc true false 6 9 2662 ∧
    decode 0b0110_010_0_0_0_1_1_1011_0000_110011001011#32 = .ldrImmPost .vs false true 11 0 3275 ∧
    decode 0b1001_011_1_1_0_1_1_0000_0111_11110000_1101#32 = .ldrRegPre .ls true true 0 7 240#8 13 ∧
    decode 0b1100_011_0_0_0_0_1_0101_1110_00010101_0000#32 = .ldrRegPost .gt false false 5 14 21#8 0 ∧
    decode 0b1111_001_1_1_0_0_1_1010_0101_00111010_0011#32 = .ldrAlias001Pre .nv true false 10 5 58#8 3 ∧
    decode 0b0010_001_0_0_0_1_1_1111_1100_01011111_0110#32 = .ldrAlias001Post .cs false true 15 12 95#8 6 := by
  decide

theorem test_decode_ldrb :
    decode 0b0101_010_1_1_1_1_1_0100_0011_100011000100#32 = .ldrbImmPre .pl true true 4 3 2244 ∧
    decode 0b1000_010_0_0_1_0_1_1001_1010_101100101001#32 = .ldrbImmPost .hi false false 9 10 2857 ∧
    decode 0b1011_011_1_1_1_0_1_1110_0001_11001110_1111#32 = .ldrbRegPre .lt true false 14 1 206#8 15 ∧
    decode 0b1110_011_0_0_1_1_1_0011_1000_11110011_0010#32 = .ldrbRegPost .al false true 3 8 243#8 2 ∧
    decode 0b0001_001_1_1_1_1_1_1000_1111_00011000_0101#32 = .ldrbAlias001Pre .ne true true 8 15 24#8 5 ∧
    decode 0b0100_001_0_0_1_0_1_1101_0110_00111101_1000#32 = .ldrbAlias001Post .mi false false 13 6 61#8 8 := by
  decide

theorem test_decode_str :
    decode 0b0111_010_1_1_0_0_0_0010_1101_011100100010#32 = .strImmPre .vc true false 2 13 1826 ∧
    decode 0b1010_010_0_0_0_1_0_0111_0100_100110000111#32 = .strImmPost .ge false true 7 4 2439 ∧
    decode 0b1101_011_1_1_0_1_0_1100_1011_10101100_0001#32 = .strRegPre .le true true 12 11 172#8 1 ∧
    decode 0b0000_011_0_0_0_0_0_0001_0010_11010001_0100#32 = .strRegPost .eq false false 1 2 209#8 4 ∧
    decode 0b0011_001_1_1_0_0_0_0110_1001_11110110_0111#32 = .strAlias001Pre .cc true false 6 9 246#8 7 ∧
    decode 0b0110_001_0_0_0_1_0_1011_0000_00011011_1010#32 = .strAlias001Post .vs false true 11 0 27#8 10 := by
  decide

theorem test_decode_strb :
    decode 0b1001_010_1_1_1_1_0_0000_0111_010110000000#32 = .strbImmPre .ls true true 0 7 1408 ∧
    decode 0b1100_010_0_0_1_0_0_0101_1110_011111100101#32 = .strbImmPost .gt false false 5 14 2021 ∧
    decode 0b1111_011_1_1_1_0_0_1010_0101_10001010_0011#32 = .strbRegPre .nv true false 10 5 138#8 3 ∧
    decode 0b0010_011_0_0_1_1_0_1111_1100_10101111_0110#32 = .strbRegPost .cs false true 15 12 175#8 6 ∧
    decode 0b0101_001_1_1_1_1_0_0100_0011_11010100_1001#32 = .strbAlias001Pre .pl true true 4 3 212#8 9 ∧
    decode 0b1000_001_0_0_1_0_0_1001_1010_11111001_1100#32 = .strbAlias001Post .hi false false 9 10 249#8 12 := by
  decide

theorem test_decode_b : decode 0b0101_101_0_100000000000000000000110#32 = .b .pl true 0x800006#24 ∧
    decode 0b0101_100_0_011111111111111111111110#32 = .b .pl false 0x7FFFFE#24 := by
  decide

theorem test_decode_bl : decode 0b1011_101_1_000000000000000000000101#32 = .bl .lt true 5#24 ∧
    decode 0b1011_100_1_111111111111111111111111#32 = .bl .lt false 0xFFFFFF#24 := by
  decide

theorem test_decode_illegal : decode 0b1101_11_10000000000000000000000011#32 = .illegal .le 0x2000003#26 ∧
    decode 0b0000_11_00000000000000000000000000#32 = .illegal .eq 0#26 := by
  decide

/-- Program text in memory is little-endian (92_eei_decisions.md D22); fewer than four bytes give no
word. -/
theorem test_decodeBytes : (decodeBytes [0x03, 0x40, 0x82, 0xE0, 0x55]).toOption =
      some (.addRsi .al false 2 4 0 .lsl 3, [0x55]) ∧
    (decodeBytes [0x03, 0x40, 0x82]).toOption = none := by
  decide

theorem test_decodeTableWord : decodeTableWord 32 0xE0824003 = some (.addRsi .al false 2 4 0 .lsl 3) := by decide

/-! ### Steps: the vectors of 95_test_vectors.md, each with the whole next state -/

/-- The state after `init(size)` with registers and memory bytes set by the host. -/
def start (size : Nat) (regs : List (Fin 17 × Word)) (addr : Nat) (bytes : List Byte) : State :=
  let s := regs.foldl (fun t r => t.writeReg r.1 r.2) (State.afterInit size normativeParams)
  { s with mem := Memory.writeBytes s.mem addr bytes }

/-- The step of the word `w` from `s` ends with this result, these registers and these bytes written,
the counter at 1 and nothing else changed. -/
def stepsTo (s : State) (w : Word) (ok : StepResult) (regs : List (Fin 17 × Word)) (addr : Nat)
    (bytes : List Byte) : Bool :=
  let u := regs.foldl (fun t r => t.writeReg r.1 r.2) s
  match step (s.present w) with
  | .next t =>
    decide (t = { u with
      mem := Memory.writeBytes s.mem addr bytes, icount := 1, result := ok, reply := some (.ok ok.ok) })
  | .fault _ => false
  | .refused _ => false

/-- Vector X4. -/
theorem test_illegal_skipped :
    stepsTo (start 0x10000 [] 0 [])
      0x0F000000 .succeeded [] 0 [] = true := by
  decide

/-- Vector X5b. -/
theorem test_illegal_fails :
    stepsTo (start 0x10000 [(0, 5)] 0 [])
      0xFDFFFFFF (.failed .illegalInstruction) [] 0 [] = true := by
  decide

/-- Vector X6. -/
theorem test_skip_before_bounds :
    stepsTo (start 0x10000 [(0, 0x77), (1, 0xfffffff0), (16, 0x40000000)] 0 [])
      0x15910000 .succeeded [] 0 [] = true := by
  decide

/-- Vector DP2. -/
theorem test_ands_zero_keeps_c :
    stepsTo (start 0x10000 [(1, 0xf0f0f0f0), (2, 0xf0f0f0f), (16, 0x20000000)] 0 [])
      0xE0110002 .succeeded [(0, 0), (16, 0x60000000)] 0 [] = true := by
  decide

/-- Vector DP5. -/
theorem test_eors :
    stepsTo (start 0x10000 [(1, 0x80000000), (2, 1)] 0 [])
      0xE0310002 .succeeded [(0, 0x80000001), (16, 0x80000000)] 0 [] = true := by
  decide

/-- Vector DP6. -/
theorem test_subs_borrow :
    stepsTo (start 0x10000 [(1, 3), (2, 5), (16, 0x20000000)] 0 [])
      0xE0510002 .succeeded [(0, 0xfffffffe), (16, 0x80000000)] 0 [] = true := by
  decide

/-- Vector DP10. -/
theorem test_rsbs :
    stepsTo (start 0x10000 [(1, 3), (2, 5)] 0 [])
      0xE0710002 .succeeded [(0, 2), (16, 0x20000000)] 0 [] = true := by
  decide

/-- Vector DP53. -/
theorem test_adds_keeps_low_bits :
    stepsTo (start 0x10000 [(1, 0xffffffff), (2, 1), (16, 0xfffffff)] 0 [])
      0xE0910002 .succeeded [(0, 0), (16, 0x6fffffff)] 0 [] = true := by
  decide

/-- Vector DP56. -/
theorem test_add_reads_before_write :
    stepsTo (start 0x10000 [(1, 3)] 0 [])
      0xE0811111 .succeeded [(1, 0x1b)] 0 [] = true := by
  decide

/-- Vector DP20. -/
theorem test_adcs_source_carry :
    stepsTo (start 0x10000 [(1, 5), (2, 0xffffffff), (16, 0x20000000)] 0 [])
      0xE0B10002 .succeeded [(0, 5), (16, 0)] 0 [] = true := by
  decide

/-- Vector DP18. -/
theorem test_adcs_cin :
    stepsTo (start 0x10000 [(1, 5), (2, 6), (16, 0x20000000)] 0 [])
      0xE0B10002 .succeeded [(0, 0xc), (16, 0)] 0 [] = true := by
  decide

/-- Vector DP24. -/
theorem test_sbcs_source_carry :
    stepsTo (start 0x10000 [(1, 5), (2, 0), (16, 0x20000000)] 0 [])
      0xE0D10002 .succeeded [(0, 5), (16, 0)] 0 [] = true := by
  decide

/-- Vector DP26. -/
theorem test_sbcs_borrow :
    stepsTo (start 0x10000 [(1, 5), (2, 5)] 0 [])
      0xE0D10002 .succeeded [(0, 0xffffffff), (16, 0x80000000)] 0 [] = true := by
  decide

/-- Vector DP29. -/
theorem test_rscs :
    stepsTo (start 0x10000 [(1, 3), (2, 5)] 0 [])
      0xE0F10002 .succeeded [(0, 1), (16, 0x20000000)] 0 [] = true := by
  decide

/-- Vector DP34. -/
theorem test_tst_s_zero :
    stepsTo (start 0x10000 [(0, 0xaa), (1, 0xf0), (2, 0xf), (16, 0x20000000)] 0 [])
      0xE1010002 .succeeded [(16, 0x60000000)] 0 [] = true := by
  decide

/-- Vector DP37. -/
theorem test_teq :
    stepsTo (start 0x10000 [(0, 0xaa), (1, 0x80000000), (2, 0)] 0 [])
      0xE1310002 .succeeded [(16, 0x80000000)] 0 [] = true := by
  decide

/-- Vector DP43. -/
theorem test_cmp_keeps_rd :
    stepsTo (start 0x10000 [(1, 1), (2, 2), (7, 0xaa)] 0 [])
      0xE1517002 .succeeded [(16, 0x80000000)] 0 [] = true := by
  decide

/-- Vector DP42. -/
theorem test_cmn :
    stepsTo (start 0x10000 [(0, 0xaa), (1, 1), (2, 0xffffffff)] 0 [])
      0xE1710002 .succeeded [(16, 0x60000000)] 0 [] = true := by
  decide

/-- Vector DP45. -/
theorem test_orrs_zero :
    stepsTo (start 0x10000 [(1, 0), (2, 0), (16, 0xa0000000)] 0 [])
      0xE1910002 .succeeded [(0, 0), (16, 0x60000000)] 0 [] = true := by
  decide

/-- Vector Sh15. -/
theorem test_mov_ror_33 :
    stepsTo (start 0x10000 [(1, 0x80000001), (2, 0x104), (3, 0x20), (4, 0xffffff21), (15, 0x100)] 0 [])
      0xE1A00471 .succeeded [(0, 0xc0000000)] 0 [] = true := by
  decide

/-- Vector DP58. -/
theorem test_movs_pc :
    stepsTo (start 0x10000 [(14, 0x80000104), (15, 0x200), (16, 0x60000000)] 0 [])
      0xE1B0F00E .succeeded [(15, 0x80000104), (16, 0xa0000000)] 0 [] = true := by
  decide

/-- Vector DP49. -/
theorem test_bics :
    stepsTo (start 0x10000 [(1, 0xffffffff), (2, 0xffff)] 0 [])
      0xE1D10002 .succeeded [(0, 0xffff0000), (16, 0x80000000)] 0 [] = true := by
  decide

/-- Vector DP51. -/
theorem test_mvns :
    stepsTo (start 0x10000 [(2, 0)] 0 [])
      0xE1F10002 .succeeded [(0, 0xffffffff), (16, 0x80000000)] 0 [] = true := by
  decide

/-- Vector B6. -/
theorem test_b_backward_wraps :
    stepsTo (start 0x10000 [(15, 0)] 0 [])
      0xEA800000 .succeeded [(15, 0xfe000008)] 0 [] = true := by
  decide

/-- Vector B8. -/
theorem test_bleq_skipped :
    stepsTo (start 0x10000 [(15, 0x200)] 0 [])
      0x0B000010 .succeeded [] 0 [] = true := by
  decide

/-- Vector B10. -/
theorem test_bl_wraps :
    stepsTo (start 0x10000 [(15, 0xfffffffc)] 0 [])
      0xEB000002 .succeeded [(14, 0), (15, 0xc)] 0 [] = true := by
  decide

/-- Vector M4. -/
theorem test_ldr_unaligned :
    stepsTo (start 0x10000 [(1, 0x1001)] 0x1000 [0x11, 0x22, 0x33, 0x44, 0x55, 0x66, 0x77, 0x88])
      0xE5910000 .succeeded [(0, 0x55443322)] 0 [] = true := by
  decide

/-- Vector M50. -/
theorem test_ldr_does_not_wrap :
    stepsTo (start 0x100 [(0, 0x77), (1, 0xfffffffe)] 0 [])
      0xE5910000 (.failed .accessOutOfRange) [] 0 [] = true := by
  decide

/-- Vector M18. -/
theorem test_ldr_post_rd_is_rn :
    stepsTo (start 0x10000 [(1, 0x1000)] 0x1000 [0x11, 0x22, 0x33, 0x44, 0x55, 0x66, 0x77, 0x88])
      0xE4911004 .succeeded [(1, 0x1004)] 0 [] = true := by
  decide

/-- Vector M9. -/
theorem test_ldr_reg_down :
    stepsTo (start 0x10000 [(1, 0x1008), (2, 4)] 0x1000 [0x11, 0x22, 0x33, 0x44, 0x55, 0x66, 0x77, 0x88])
      0xE7110002 .succeeded [(0, 0x88776655)] 0 [] = true := by
  decide

/-- Vector M10. -/
theorem test_ldr_reg_post :
    stepsTo (start 0x10000 [(1, 0x1000), (2, 4)] 0x1000 [0x11, 0x22, 0x33, 0x44, 0x55, 0x66, 0x77, 0x88])
      0xE6910002 .succeeded [(0, 0x44332211), (1, 0x1004)] 0 [] = true := by
  decide

/-- Vector M57. -/
theorem test_ldr_001 :
    stepsTo (start 0x10000 [(2, 0x100), (3, 8)] 0x100 [0xDD, 0xCC, 0xBB, 0xAA])
      0xE2921003 .succeeded [(1, 0xaabbccdd), (2, 0x108)] 0 [] = true := by
  decide

/-- Vector M15. -/
theorem test_ldrb_zero_extends :
    stepsTo (start 0x10000 [(1, 0x1000)] 0x1000 [0x11, 0x22, 0x33, 0x44, 0x55, 0x66, 0x77, 0x88])
      0xE5D10007 .succeeded [(0, 0x88)] 0 [] = true := by
  decide

/-- Vector M16. -/
theorem test_ldrb_reg_post :
    stepsTo (start 0x10000 [(1, 0x1000), (2, 4)] 0x1000 [0x11, 0x22, 0x33, 0x44, 0x55, 0x66, 0x77, 0x88])
      0xE6D10002 .succeeded [(0, 0x11), (1, 0x1004)] 0 [] = true := by
  decide

/-- Vector M17. -/
theorem test_ldrb_reg_down :
    stepsTo (start 0x10000 [(1, 0x1004), (2, 4)] 0x1000 [0x11, 0x22, 0x33, 0x44, 0x55, 0x66, 0x77, 0x88])
      0xE7510002 .succeeded [(0, 0x11)] 0 [] = true := by
  decide

/-- Vector M58. -/
theorem test_ldrb_001 :
    stepsTo (start 0x10000 [(2, 0x105), (5, 5)] 0x100 [0xDD])
      0xE3520005 .succeeded [(0, 0xdd)] 0 [] = true := by
  decide

/-- Vector M22. -/
theorem test_str_unaligned :
    stepsTo (start 0x10000 [(0, 0xcafebabe), (1, 0x1001)] 0x1000 [0x11, 0x22, 0x33, 0x44, 0x55, 0x66, 0x77, 0x88])
      0xE5810000 .succeeded [] 0x1001 [0xBE, 0xBA, 0xFE, 0xCA] = true := by
  decide

/-- Vector M44. -/
theorem test_str_last_word :
    stepsTo (start 0x100 [(0, 0x77), (1, 0xfc)] 0 [])
      0xE5810000 .succeeded [] 0xFC [0x77, 0, 0, 0] = true := by
  decide

/-- Vector M29. -/
theorem test_str_post_rd_is_rn :
    stepsTo (start 0x10000 [(1, 0x2000)] 0x1000 [0x11, 0x22, 0x33, 0x44, 0x55, 0x66, 0x77, 0x88])
      0xE4811004 .succeeded [(1, 0x2004)] 0x2000 [0x00, 0x20, 0, 0] = true := by
  decide

/-- Vector M47. -/
theorem test_str_fails_without_writeback :
    stepsTo (start 0x100 [(0, 0x77), (1, 0x100)] 0 [])
      0xE4810004 (.failed .accessOutOfRange) [] 0 [] = true := by
  decide

/-- Vector M26. -/
theorem test_str_reg :
    stepsTo (start 0x10000 [(0, 0x1020304), (1, 0x2000), (2, 0x10)] 0x1000 [0x11, 0x22, 0x33, 0x44, 0x55, 0x66, 0x77, 0x88])
      0xE7810002 .succeeded [] 0x2010 [4, 3, 2, 1] = true := by
  decide

/-- Vector M27. -/
theorem test_str_reg_post :
    stepsTo (start 0x10000 [(0, 0x1020304), (1, 0x2000), (2, 0x10)] 0x1000 [0x11, 0x22, 0x33, 0x44, 0x55, 0x66, 0x77, 0x88])
      0xE6010002 .succeeded [(1, 0x1ff0)] 0x2000 [4, 3, 2, 1] = true := by
  decide

/-- Vector M59. -/
theorem test_str_001 :
    stepsTo (start 0x10000 [(0, 0x80), (15, 0x1234)] 0 [])
      0xE3A0F000 .succeeded [] 0x100 [0x34, 0x12, 0, 0] = true := by
  decide

/-- Vector M60. -/
theorem test_str_001_post_pc :
    stepsTo (start 0x10000 [(4, 0x10), (15, 0x200)] 0 [])
      0xE28FF004 .succeeded [(15, 0x210)] 0x200 [0, 2, 0, 0] = true := by
  decide

/-- Vector M23. -/
theorem test_strb :
    stepsTo (start 0x10000 [(0, 0x12345678), (1, 0x1002)] 0x1000 [0x11, 0x22, 0x33, 0x44, 0x55, 0x66, 0x77, 0x88])
      0xE5C10000 .succeeded [] 0x1002 [0x78] = true := by
  decide

/-- Vector M25. -/
theorem test_strb_post :
    stepsTo (start 0x10000 [(0, 0xee), (1, 0x2000)] 0x1000 [0x11, 0x22, 0x33, 0x44, 0x55, 0x66, 0x77, 0x88])
      0xE4410001 .succeeded [(1, 0x1fff)] 0x2000 [0xEE] = true := by
  decide

/-- Vector M61. -/
theorem test_strb_001 :
    stepsTo (start 0x10000 [(0, 0x41)] 0 [])
      0xE3E00000 .succeeded [] 0x82 [0x41] = true := by
  decide

/-- Vectors A2 and A5 of the test configuration `DECODE_001 = DataProcImm`. -/
theorem test_dataProcImm :
    let s := { start 0x10000 [(2, 0xFFFFFFFD)] 0 [] with params := { normativeParams with decode001 := .dataProcImm } }
    stepsTo s 0xE3A014FF .succeeded [(1, 0xFF000000)] 0 [] = true ∧
    stepsTo s 0xE2921003 .succeeded [(1, 0), (16, 0x60000000)] 0 [] = true := by
  decide

/-- Vector A9. -/
theorem test_illegalBeforeCond :
    stepsTo { start 0x10000 [] 0 [] with params := { normativeParams with illegalBeforeCond := true } }
      0x0F000000 (.failed .illegalInstruction) [] 0 [] = true := by
  decide

/-- Rows of the shift table (95_test_vectors.md section 2.3). -/
theorem test_shift_table :
    shift .mathematical .asr 0x80000001#32 4 = 0xF8000000#32 ∧ shift .mathematical .ror 0x80000001#32 255 = 3#32 ∧
    shift .mathematical .lsl 0x000000FF#32 31 = 0x80000000#32 ∧ shift .mathematical .lsr 0x7FFFFFFF#32 32 = 0#32 ∧
    shift .mathematical .asr 0x80000001#32 33 = 0xFFFFFFFF#32 := by
  decide

/-- The state with one transaction presented. -/
def presenting (t : Transaction) (s : State) : State := { s with requests := [t] }

/-- What the step answers has this reply and satisfies `p`. -/
def answers (s : State) (r : Reply) (p : State → Bool) : Bool :=
  match step s with
  | .next t => decide (t.reply = some r) && p t
  | .fault _ => false
  | .refused _ => false

/-- Vector H2a. -/
theorem test_init_two : answers (presenting (.init 2 true) State.reset) (.ok true)
    (fun t => decide (t.memSize = 2) && decide (t.sp = 0xFFFFFFFE#32)) = true := by
  decide

/-- Vector H5: three doublings. -/
theorem test_writeMemory_grows :
    answers (presenting (.writeMemory 0x500 [0xEE] true) (start 0x100 [] 0 [])) (.ok true)
      (fun t => decide (t.memSize = 0x501) && decide (t.cap = 0x800) && decide (t.mem = [(0x500, 0xEE)])) = true := by
  decide

/-- Growth past 2^32 whose allocation fails replies 0 and changes nothing (50_host_interface.md R234,
92_eei_decisions.md D20). -/
theorem test_writeMemory_allocation_fails :
    answers (presenting (.writeMemory 0x100000000 [0xEE] false) (start 0x100 [] 0 [])) (.ok false)
      (fun t => decide ({ t with reply := none } = start 0x100 [] 0 [])) = true := by
  decide

/-- Vector H3. -/
theorem test_readMemory : answers (presenting (.readMemory 0x0E 4) (start 0x100 [] 0x10 [1, 2, 3, 4]))
    (.bytes (some [0, 0, 1, 2])) (fun _ => true) = true := by
  decide

/-- Vector H11. -/
theorem test_registers_above_16 :
    answers (presenting (.getRegister 17) State.reset) (.word 0) (fun _ => true) = true ∧
    answers (presenting (.setRegister 17 5) State.reset) .done (fun t => decide (t.x = State.reset.x)) = true := by
  decide

/-- Vector H17: the first word of a batch fails. -/
theorem test_batch_fails : answers (presenting (.executeInstructions [0xEF000000#32]) State.reset) (.count 0)
    (fun t => decide (t.icount = 1) && decide (t.batch = none)) = true := by
  decide

/-- Vector H14, its first word: the rest of the batch stays in progress. -/
theorem test_batch_continues :
    (match step (presenting (.executeInstructions [0xE0810002#32, 0x00810002#32]) (start 0x100 [(1, 1), (2, 2)] 0 [])) with
    | .next t => decide (t.readReg 0 = 3#32) && decide (t.batch = some ⟨[0x00810002#32], 1⟩) && decide (t.reply = none)
    | .fault _ => false
    | .refused _ => false) = true := by
  decide

/-! ### Witnesses: for each statement, a state and operands that meet its hypotheses, at a boundary of
each clause's range -/

theorem witness_DecodeOfEncodeIsTheInstruction :
    WellFormed (.addRsi .al true 1 2 31 .ror 3) ∧ WellFormed (.ldrImmPre .al true false 1 2 4095) := by
  decide

theorem witness_DontCareBitsHaveNoEffect :
    (0x0E000010#32, 0x00000010#32, 0x00000080#32) ∈ ignoredBits ∧ (0xE0810012#32) &&& 0x0E000010#32 = 0x00000010#32 ∧
    AgreeOutside 0x00000080#32 0xE0810012#32 0xE0810092#32 := by
  decide

/-- Every row of the table of ignored bits has such words: its pattern without and with the ignored
bits. -/
theorem witness_DontCareBitsHaveNoEffect_rows :
    (ignoredBits.all fun r => r.2.1 &&& r.1 == r.2.1 && r.2.1 &&& ~~~r.2.2 == (r.2.1 ||| r.2.2) &&& ~~~r.2.2 &&
      r.2.1 != r.2.1 ||| r.2.2) = true := by
  decide

theorem witness_ConditionFifteenExecutesAsAlways : (0xF0810002#32).extractLsb' 28 4 = 0xF#4 := by decide

theorem witness_AliasWordsExecuteAsRegisterOffsetWords : (0xE3A0100F#32).extractLsb' 25 3 = 0b001#3 := by decide

theorem witness_StepRunsThePresentedInstruction :
    Presents (State.reset.present 0xE0810002#32) 0xE0810002#32 [] ∧
    (State.reset.present 0xE0810002#32).params.decode001 = .loadStore ∧
    State.reset.initialized = true ∧ State.reset.params.decode001 = .loadStore ∧
    decodeTableWord 32 0xE0810002 = some (.addRsi .al false 1 0 0 .lsl 2) :=
  ⟨⟨rfl, rfl, rfl⟩, rfl, rfl, rfl, by decide⟩

theorem witness_SkippedWordChangesOnlyTheCounter :
    Presents (State.reset.present 0x0F000000#32) 0x0F000000#32 [] ∧
    (State.reset.present 0x0F000000#32).params.illegalBeforeCond = false ∧
    (State.reset.present 0x0F000000#32).condPass (Cond.ofBits ((0x0F000000#32).extractLsb' 28 4)) = false :=
  ⟨⟨rfl, rfl, rfl⟩, rfl, by decide⟩

theorem witness_IllegalInstructionFailsAndChangesNothing :
    Presents (State.reset.present 0xEC000000#32) 0xEC000000#32 [] ∧ (0xEC000000#32).extractLsb' 26 2 = 0b11#2 ∧
    (State.reset.present 0xEC000000#32).condPass (Cond.ofBits ((0xEC000000#32).extractLsb' 28 4)) = true :=
  ⟨⟨rfl, rfl, rfl⟩, by decide, by decide⟩

/-- The same with a false condition, in the non-normative order of the tests. -/
theorem witness_IllegalInstructionFailsAndChangesNothing_beforeCond :
    let s := { State.reset.present 0x0F000000#32 with params := { normativeParams with illegalBeforeCond := true } }
    Presents s 0x0F000000#32 [] ∧ (0x0F000000#32).extractLsb' 26 2 = 0b11#2 ∧
    s.condPass (Cond.ofBits ((0x0F000000#32).extractLsb' 28 4)) = false ∧ s.params.illegalBeforeCond = true :=
  ⟨⟨rfl, rfl, rfl⟩, by decide, by decide, rfl⟩

theorem witness_ShiftIsTheMathematicalShift :
    (31 ≤ 255 ∧ (31 < 32 ∨ ShiftGe32.other = .mathematical)) ∧
    (32 ≤ 255 ∧ (32 < 32 ∨ ShiftGe32.mathematical = .mathematical) ∧ 32 ≤ 32) ∧
    (255 ≤ 255 ∧ (255 < 32 ∨ ShiftGe32.mathematical = .mathematical) ∧ 32 ≤ 255) := by
  decide

/-- What a `DpRule` assumes: a word of the operation, and a state whose condition passes. -/
abbrev DpWitness (op : BitVec 4) (w : Word) (c : Cond) (s : State) : Prop :=
  w.extractLsb' 25 3 = 0b000#3 ∧ w.extractLsb' 21 4 = op ∧ s.condPass c = true

theorem witness_AndWritesTheConjunction : DpWitness 0x0#4 0xE0010002#32 .al State.reset := by decide

theorem witness_EorWritesTheExclusiveOr : DpWitness 0x1#4 0xE0210002#32 .al State.reset := by decide

theorem witness_SubWritesTheDifference : DpWitness 0x2#4 0xE0410002#32 .al State.reset := by decide

theorem witness_RsbWritesTheReversedDifference : DpWitness 0x3#4 0xE0610002#32 .al State.reset := by decide

theorem witness_AddWritesTheSum : DpWitness 0x4#4 0xE0810002#32 .al State.reset := by decide

theorem witness_AdcWritesTheSumWithCarry : DpWitness 0x5#4 0xE0A10002#32 .al State.reset := by decide

theorem witness_SbcWritesTheDifferenceWithCarry : DpWitness 0x6#4 0xE0C10002#32 .al State.reset := by decide

theorem witness_RscWritesTheReversedDifferenceWithCarry : DpWitness 0x7#4 0xE0E10002#32 .al State.reset := by decide

theorem witness_TstSetsFlagsOfTheConjunction : DpWitness 0x8#4 0xE1010002#32 .al State.reset := by decide

theorem witness_TeqSetsFlagsOfTheExclusiveOr : DpWitness 0x9#4 0xE1210002#32 .al State.reset := by decide

theorem witness_CmpSetsFlagsOfTheDifference : DpWitness 0xA#4 0xE1410002#32 .al State.reset := by decide

theorem witness_CmnSetsFlagsOfTheSum : DpWitness 0xB#4 0xE1610002#32 .al State.reset := by decide

theorem witness_OrrWritesTheDisjunction : DpWitness 0xC#4 0xE1810002#32 .al State.reset := by decide

theorem witness_MovWritesOperandTwo : DpWitness 0xD#4 0xE1A10002#32 .al State.reset := by decide

theorem witness_BicWritesTheBitClear : DpWitness 0xE#4 0xE1C10002#32 .al State.reset := by decide

theorem witness_MvnWritesTheComplement : DpWitness 0xF#4 0xE1E10002#32 .al State.reset := by decide

/-- What an `LsRule` assumes: a word of each of its three families, and two states whose condition
passes, with the access at the register's address ending at `MEM_SIZE` in one and just above it in the
other. -/
abbrev LsWitness (l b : Bool) (w : Width) (imm reg aliased : Word) (c : Cond) (s t : State) : Prop :=
  (imm.getLsbD 20 = l ∧ imm.getLsbD 22 = b ∧ imm.extractLsb' 25 3 = 0b010#3) ∧
  (reg.getLsbD 20 = l ∧ reg.getLsbD 22 = b ∧ reg.extractLsb' 25 3 = 0b011#3) ∧
  (aliased.getLsbD 20 = l ∧ aliased.getLsbD 22 = b ∧ aliased.extractLsb' 25 3 = 0b001#3) ∧
  (s.condPass c = true ∧ Memory.wf s.mem = true ∧ s.initialized = true ∧ (s.readReg 1).toNat + w.bytes = s.memSize) ∧
  (t.condPass c = true ∧ Memory.wf t.mem = true ∧ t.memSize + 1 = (t.readReg 1).toNat + w.bytes)

theorem witness_LdrLoadsTheWord : LsWitness true false .word 0xE5910000#32 0xE7910002#32 0xE2921003#32 .al
    (start 0x100 [(1, 0xFC)] 0 []) (start 0x100 [(1, 0xFD)] 0 []) := by
  decide

theorem witness_LdrbLoadsTheByte : LsWitness true true .byte 0xE5D10000#32 0xE6D10002#32 0xE3520005#32 .al
    (start 0x100 [(1, 0xFF)] 0 []) (start 0x100 [(1, 0x100)] 0 []) := by
  decide

theorem witness_StrStoresTheWord : LsWitness false false .word 0xE5810000#32 0xE7810002#32 0xE3A0100F#32 .al
    (start 0x100 [(1, 0xFC)] 0 []) (start 0x100 [(1, 0xFD)] 0 []) := by
  decide

theorem witness_StrbStoresTheByte : LsWitness false true .byte 0xE5C10000#32 0xE7C10002#32 0xE3E00000#32 .al
    (start 0x100 [(1, 0xFF)] 0 []) (start 0x100 [(1, 0x100)] 0 []) := by
  decide

theorem witness_BranchMovesThePc : (0xE8000000#32).extractLsb' 26 2 = 0b10#2 ∧ (0xE8000000#32).getLsbD 24 = false ∧
    State.reset.condPass .ne = true ∧ State.reset.condPass .eq = false := by
  decide

theorem witness_BranchWithLinkSetsLrAndMovesThePc : (0xE9000000#32).extractLsb' 26 2 = 0b10#2 ∧
    (0xE9000000#32).getLsbD 24 = true ∧ State.reset.condPass .ne = true ∧ State.reset.condPass .eq = false := by
  decide

/-- A state that meets the invariant and whose step executes `BL`. -/
def linking : State := (start 0x100 [(15, 0x40)] 0 [1]).present 0xEB000000#32

theorem witness_StepKeepsTheShadowsEqual : linking.Mirrored ∧ ∃ t, step linking = .next t := ⟨by decide, _, rfl⟩

/-- A state with a well-formed image whose step stores a byte. -/
def storing : State := (start 0x100 [(0, 0x77), (1, 0xFF)] 0 [1]).present 0xE5C10000#32

theorem witness_StepKeepsTheImageWellFormed : storing.ImageWf ∧ ∃ t, step storing = .next t := ⟨by decide, _, rfl⟩

/-- A state with a batch of one word in progress. -/
def batching : State := { State.reset with batch := some ⟨[0xE0810002#32], 3⟩ }

theorem witness_StepKeepsTheBatchNonEmpty : batching.BatchWf ∧ ∃ t, step batching = .next t := ⟨by decide, _, rfl⟩

theorem witness_InitResetsEverything :
    (presenting (.init 0 true) State.reset).batch = none ∧
    (presenting (.init 0 true) State.reset).requests = [.init 0 true] ∧ (if 0 = 0 then 0x04000000 else 0) ≤ 2 ^ 32 ∧
    (presenting (.init (2 ^ 32) false) State.reset).batch = none ∧
    (presenting (.init (2 ^ 32) false) State.reset).requests = [.init (2 ^ 32) false] ∧
    (if 2 ^ 32 = 0 then 0x04000000 else 2 ^ 32) ≤ 2 ^ 32 :=
  ⟨rfl, rfl, by decide, rfl, rfl, by decide⟩

theorem witness_NoInstructionWritesVOrTheLowCpsrBits :
    ∃ t, exec (.addRsi .al true 1 0 0 .lsl 2) (start 0x100 [(16, 0x0FFFFFFF)] 0 []) = .next t :=
  ⟨_, rfl⟩

theorem witness_OnlyFlagSettingInstructionsWriteTheCpsr :
    ∃ t, exec (.addRsi .al true 1 0 0 .lsl 2) State.reset = .next t ∧ t.cpsr ≠ State.reset.cpsr :=
  ⟨_, rfl, by decide⟩

theorem witness_OnlyPcWritersChangeThePc :
    ∃ t, exec (.b .al true 0#24) State.reset = .next t ∧
      (t.readReg 15 ≠ State.reset.readReg 15 ∨ t.pcShadow ≠ State.reset.pcShadow) :=
  ⟨_, rfl, .inl (by decide)⟩

theorem witness_OnlyStoresChangeMemory :
    ∃ t, exec (.strbImmPre .al true false 1 0 0) (start 0x100 [(0, 0x77)] 0 []) = .next t ∧ t.mem ≠ [] :=
  ⟨_, rfl, by decide⟩

theorem witness_FailingInstructionChangesNothing :
    (∃ t, exec (.illegal .al 0#26) State.reset = .next t ∧ t.result = .failed .illegalInstruction) ∧
    (∃ t, exec (.ldrImmPre .al true false 1 0 0) (start 0x100 [(1, 0xFD)] 0 []) = .next t ∧
      t.result = .failed .accessOutOfRange) :=
  ⟨⟨_, rfl, by decide⟩, ⟨_, rfl, by decide⟩⟩

/-- An engine that no `init` has reached. -/
def uninitialized : State := { State.reset with initialized := false }

theorem witness_CounterCountsInstructionSteps :
    ((∃ t, step batching = .next t) ∧ (nextWord batching).isSome = true ∧ batching.initialized = true) ∧
    (∃ t, step (presenting (.executeInstruction 0#32) uninitialized) = .next t ∧
      (nextWord (presenting (.executeInstruction 0#32) uninitialized)).isSome = true) ∧
    ((∃ t, step (presenting (.init 0 true) State.reset) = .next t) ∧
      succeedsAsInit (presenting (.init 0 true) State.reset)) ∧
    ((∃ t, step (presenting (.init 0 false) State.reset) = .next t) ∧
      nextWord (presenting (.init 0 false) State.reset) = none ∧
      ¬ succeedsAsInit (presenting (.init 0 false) State.reset)) := by
  refine ⟨⟨⟨_, rfl⟩, by decide, rfl⟩, ⟨_, rfl, by decide⟩, ⟨⟨_, rfl⟩, rfl, 0, [], rfl⟩, ⟨⟨_, rfl⟩, by decide, ?_⟩⟩
  rintro ⟨_, _, _, h⟩
  cases h

theorem witness_StepStopsOnlyAtMeaninglessTransactions :
    step (presenting .destroy State.reset) = .fault .destroyed ∧
    step (presenting .getPC uninitialized) = .refused .beforeInit ∧
    step (presenting (.init (2 ^ 32 + 1) true) State.reset) = .refused .capacityUnsupported ∧
    step (presenting (.writeMemory (2 ^ 32) [1] true) State.reset) = .refused .capacityUnsupported :=
  ⟨rfl, rfl, rfl, by rfl⟩

/-- A write that needs one doubling of the capacity, and one that ends at `CAP`. -/
def growing (allocOk : Bool) : State := presenting (.writeMemory 0xFF [1, 2] allocOk) (start 0x100 [] 0 [])

theorem witness_WriteMemoryGrowsAndWrites :
    (growing true).ImageWf ∧ (growing true).initialized = true ∧ (growing true).batch = none ∧
    (growing true).requests = [.writeMemory 0xFF [1, 2] true] ∧ [(1 : Byte), 2] ≠ [] ∧
    0xFF + 2 ≤ 2 ^ 1 * (growing true).cap ∧ (∀ j < 1, 2 ^ j * (growing true).cap < 0xFF + 2) ∧
    2 ^ 1 * (growing true).cap ≤ 2 ^ 32 ∧ (growing false).ImageWf ∧ (growing false).initialized = true ∧
    (growing false).requests = [.writeMemory 0xFF [1, 2] false] ∧ (growing false).cap < 0xFF + 2 ∧
    0xFE + 2 ≤ 2 ^ 0 * (growing false).cap := by
  decide

theorem witness_ReadMemoryDeliversTheBytesInRange :
    (presenting (.readMemory 0xFC 4) (start 0x100 [] 0 [])).batch = none ∧
    (start 0x100 [] 0 []).initialized = true ∧ 0xFC + 4 ≤ (start 0x100 [] 0 []).memSize ∧
    (start 0x100 [] 0 []).memSize < 0xFD + 4 ∧
    Memory.wf [] = true ∧ [(0 : Byte), 0, 1, 0].length = 4 ∧
    (start 0x100 [] 0xFC [0, 0, 1, 0]).mem = Memory.writeBytes [] 0xFC [0, 0, 1, 0] := by
  decide

theorem witness_WriteMemoryThenReadMemoryRoundTrips :
    let s := { start 0x100 [] 0 [] with requests := [.writeMemory 0xFE [1, 2] false, .readMemory 0xFE 2] }
    s.ImageWf ∧ s.batch = none ∧ [(1 : Byte), 2] ≠ [] ∧
    s.requests = .writeMemory 0xFE [1, 2] false :: .readMemory 0xFE [(1 : Byte), 2].length :: [] ∧
    ∃ t, step s = .next t ∧ t.reply = some (.ok true) :=
  ⟨by decide, rfl, by decide, rfl, _, rfl, by decide⟩

theorem witness_HostReadsAndWritesRegisters :
    State.reset.initialized = true ∧ (presenting (.setRegister 16 1#32) State.reset).batch = none ∧
    (presenting (.setRegister 16 1#32) State.reset).requests = [.setRegister 16 1#32] ∧
    (presenting (.setRegister 17 1#32) State.reset).requests = [.setRegister 17 1#32] ∧ 16 < 17 ∧
    (presenting (.getRegister 16) State.reset).requests = [.getRegister 16] :=
  ⟨rfl, rfl, rfl, rfl, by decide, rfl⟩

theorem witness_SetPcAndGetPcMirrorRegisterFifteen :
    State.reset.initialized = true ∧ (presenting (.setPC 0x48#32) State.reset).batch = none ∧
    (presenting (.setPC 0x48#32) State.reset).requests = [.setPC 0x48#32] ∧
    (presenting .getPC State.reset).requests = [.getPC] :=
  ⟨rfl, rfl, rfl, rfl⟩

theorem witness_BatchCountsSuccessesUntilTheFirstFailure :
    (presenting (.executeInstructions [0xE0810002#32, 0xEF000000#32]) State.reset).batch = none ∧
    (presenting (.executeInstructions [0xE0810002#32, 0xEF000000#32]) State.reset).requests =
      [.executeInstructions [0xE0810002#32, 0xEF000000#32]] :=
  ⟨rfl, rfl⟩

theorem witness_CountersAreReadWithoutChange :
    State.reset.initialized = true ∧ (presenting .getInstructionCount State.reset).batch = none ∧
    (presenting .getInstructionCount State.reset).requests = [.getInstructionCount] ∧
    (presenting .getMemorySize State.reset).requests = [.getMemorySize] :=
  ⟨rfl, rfl, rfl, rfl⟩

theorem witness_UninitializedEngineFailsEveryWord :
    uninitialized.initialized = false ∧ uninitialized.batch = none ∧
    (presenting (.executeInstruction 0#32) uninitialized).requests = [.executeInstruction 0#32] ∧
    (presenting (.executeInstructions [0#32]) uninitialized).requests = [.executeInstructions [0#32]] ∧
    (presenting (.readMemory 0 1) uninitialized).requests = [.readMemory 0 1] ∧
    (presenting (.writeMemory 0 [1] true) uninitialized).requests = [.writeMemory 0 [1] true] :=
  ⟨rfl, rfl, rfl, rfl, rfl, rfl⟩

theorem witness_StoredWordIsLoadedBackByteByByte :
    Memory.wf (start 0x100 [] 0 [1]).mem = true ∧ (0xFFFFFFFC#32).toNat + 4 ≤ 2 ^ 32 ∧ 3 < 4 := by
  decide

theorem witness_DataProcImmConfigurationRunsTheImmediateForm :
    let s := { State.reset.present 0xE3A014FF#32 with params := { normativeParams with decode001 := .dataProcImm } }
    Presents s 0xE3A014FF#32 [] ∧ s.params.decode001 = .dataProcImm ∧ (0xE3A014FF#32).extractLsb' 25 3 = 0b001#3 ∧
    s.condPass (Cond.ofBits ((0xE3A014FF#32).extractLsb' 28 4)) = true :=
  ⟨⟨rfl, rfl, rfl⟩, rfl, by decide, by decide⟩

theorem witness_IdleEngineStaysAsItIs : State.reset.requests = [] ∧ State.reset.batch = none := ⟨rfl, rfl⟩

end Sys2Proof.Tests
end

section
/-! The state family (10_state.md): the state after reset, and which steps and instructions change the
shadow fields, the CPSR and the PC. -/

namespace Sys2Proof.Machine

open Sys2Proof.Claims

/-! ### The state after init -/

/-- After `init` every register is 0 but SP (10_state.md R40). -/
theorem State.afterInit_readReg (cap : Nat) (params : Params) (i : Fin 17) :
    (State.afterInit cap params).readReg i = if i = 13 then resetSp cap else 0 := by
  fin_cases i <;> rfl

theorem State.afterInit_byteAt (cap : Nat) (params : Params) (a : Nat) :
    (State.afterInit cap params).byteAt a = 0 := rfl

theorem State.afterInit_mirrored (cap : Nat) (params : Params) : (State.afterInit cap params).Mirrored :=
  ⟨rfl, rfl, rfl⟩

theorem State.afterInit_imageWf {cap : Nat} (hpos : 1 ≤ cap) (hmax : cap ≤ maxCapacity) (params : Params) :
    (State.afterInit cap params).ImageWf :=
  ⟨rfl, rfl, Nat.le_refl cap, hmax, fun _ => hpos⟩

theorem State.afterInit_batchWf (cap : Nat) (params : Params) : (State.afterInit cap params).BatchWf := rfl

/-- Settles O39: reset is the state after `init` of a capacity from 1 to 2^32 bytes. -/
theorem resetMeetsTheInvariant : Obligations.ResetMeetsTheInvariant :=
  ⟨State.afterInit_mirrored _ _, State.afterInit_imageWf (by decide) (by decide) _, State.afterInit_batchWf _ _⟩

/-- Settles O41, by what `init` leaves in each register and byte. -/
theorem resetStateIsInitOfTheDefaultCapacity : Obligations.ResetStateIsInitOfTheDefaultCapacity := by
  have hsp : resetSp defaultCapacity = 0x03FFFFFC#32 := by decide
  refine ⟨fun i => ?_, State.afterInit_byteAt _ _, rfl, rfl, rfl, rfl⟩
  rw [← hsp]
  exact State.afterInit_readReg _ _ i

/-! ### The shadow fields

An update of a field that is no register and no shadow field keeps `Mirrored` by computation; every
register is written by `writeReg`, which keeps it by `mirrored_writeReg`. -/

theorem stepWord_mirrored {w : Word} {s t : State} (hs : s.Mirrored) (h : stepWord w s = .next t) :
    t.Mirrored := by
  rcases stepWord_cases w s with ⟨_, u, hu, _, hkept⟩ | ⟨_, hu⟩ <;> rw [hu] at h <;> cases h
  · exact hkept.mirrored hs
  · exact hs

theorem executeInstruction_mirrored {w : Word} {s t : State} (hs : s.Mirrored)
    (h : executeInstruction w s = .next t) : t.Mirrored := by
  obtain ⟨u, hu, rfl⟩ := mapNext_eq_next h
  have ht : u.Mirrored := stepWord_mirrored hs hu
  exact ht

theorem continueBatch_mirrored {s : State} (hs : s.Mirrored) (rest : List Word) (count : Nat) :
    (s.continueBatch rest count).Mirrored := by
  unfold State.continueBatch
  split
  · cases rest <;> exact hs
  · exact hs

theorem stepBatch_mirrored {b : Batch} {s t : State} (hs : s.Mirrored) (h : stepBatch b s = .next t) :
    t.Mirrored := by
  obtain ⟨words, count⟩ := b
  cases words with
  | nil => cases h; exact hs
  | cons w rest =>
    obtain ⟨u, hu, rfl⟩ := mapNext_eq_next h
    exact continueBatch_mirrored (stepWord_mirrored hs hu) rest count

theorem initEngine_mirrored {size : Nat} {allocOk : Bool} {s t : State} (hs : s.Mirrored)
    (h : initEngine size allocOk s = .next t) : t.Mirrored := by
  unfold initEngine at h
  split at h
  · cases h
  · split at h <;> cases h
    · exact State.afterInit_mirrored (initCapacity size) s.params
    · exact hs

theorem writeMemory_mirrored {addr : Nat} {data : List Byte} {allocOk : Bool} {s t : State} (hs : s.Mirrored)
    (h : writeMemory addr data allocOk s = .next t) : t.Mirrored := by
  unfold writeMemory at h
  dsimp only at h
  split_ifs at h <;> cases h <;> exact hs

/-- A transaction that needs an initialized engine answers a next state only where its outcome does. -/
theorem whenInitialized_eq_next {s t : State} {o : Outcome} (h : whenInitialized s o = .next t) :
    s.initialized = true ∧ o = .next t := by
  unfold whenInitialized at h
  split at h
  · exact ⟨‹_›, h⟩
  · cases h

theorem setRegister_mirrored {reg : Nat} {value : Word} {s t : State} (hs : s.Mirrored)
    (h : setRegister reg value s = .next t) : t.Mirrored := by
  obtain ⟨_, h⟩ := whenInitialized_eq_next h
  split at h <;> cases h
  · exact mirrored_writeReg hs _ _
  · exact hs

theorem perform_mirrored {r : Transaction} {s t : State} (hs : s.Mirrored) (h : perform r s = .next t) :
    t.Mirrored := by
  cases r with
  | create => cases h; exact hs
  | init => exact initEngine_mirrored hs h
  | writeMemory => exact writeMemory_mirrored hs h
  | readMemory => cases h; exact hs
  | setRegister | setPC => exact setRegister_mirrored hs h
  | getRegister | getPC | getInstructionCount | getMemorySize =>
    obtain ⟨_, h⟩ := whenInitialized_eq_next h
    cases h
    exact hs
  | executeInstruction => exact executeInstruction_mirrored hs h
  | executeInstructions => exact stepBatch_mirrored hs h
  | destroy => cases h

/-- Everything a step that answers `t` can be: a word of the batch in progress, nothing when nothing is
presented, or the oldest transaction. -/
theorem step_eq_next {s t : State} (h : step s = .next t) :
    (∃ b, s.batch = some b ∧ stepBatch b { s with reply := none } = .next t) ∨
    (s.batch = none ∧ s.requests = [] ∧ t = s) ∨
    (∃ r rest, s.batch = none ∧ s.requests = r :: rest ∧
      perform r { s with requests := rest, reply := none } = .next t) := by
  unfold step advance at h
  split at h
  next b hb => exact .inl ⟨b, hb, h⟩
  next hb hr => cases h; exact .inr (.inl ⟨hb, hr, rfl⟩)
  next r rest hb hr => exact .inr (.inr ⟨r, rest, hb, hr, h⟩)

/-- Settles O36, by the cases of a step; clearing the reply and taking a transaction write no register. -/
theorem stepKeepsTheShadowsEqual : Obligations.StepKeepsTheShadowsEqual := by
  intro s t hs h
  rcases step_eq_next h with ⟨b, _, hb⟩ | ⟨_, _, rfl⟩ | ⟨r, rest, _, _, hr⟩
  · exact stepBatch_mirrored (s := { s with reply := none }) hs hb
  · exact hs
  · exact perform_mirrored (s := { s with requests := rest, reply := none }) hs hr

/-! ### What an instruction that answers `t` did -/

/-- An instruction executes its effect or leaves a success or a failure and nothing else. -/
theorem exec_eq_next {i : Instr} {s t : State} (h : exec i s = .next t) :
    (s.condPass i.cond = true ∧ t = effect i.toForm s) ∨ t = s.succeed ∨ t = s.fail .illegalInstruction := by
  rcases exec_cases i s with ⟨hc, hx⟩ | ⟨_, hx⟩ | ⟨_, _, _, hx⟩ <;> rw [hx] at h <;> cases h
  · exact .inl ⟨hc, rfl⟩
  · exact .inr (.inl rfl)
  · exact .inr (.inr rfl)

theorem load_succeeds_or_fails (w : Width) (pre up : Bool) (rn rd : RegNum) (offset : Word) (s : State) :
    (load w pre up rn rd offset s).result = .succeeded ∨
      load w pre up rn rd offset s = s.fail .accessOutOfRange := by
  unfold load
  dsimp only
  split
  · exact .inl rfl
  · exact .inr rfl

theorem store_succeeds_or_fails (w : Width) (pre up : Bool) (rn rd : RegNum) (offset : Word) (s : State) :
    (store w pre up rn rd offset s).result = .succeeded ∨
      store w pre up rn rd offset s = s.fail .accessOutOfRange := by
  unfold store
  dsimp only
  split
  · exact .inl rfl
  · exact .inr rfl

theorem access_succeeds_or_fails (op : LsOp) (pre up : Bool) (rn rd : RegNum) (offset : Word) (s : State) :
    (access op pre up rn rd offset s).result = .succeeded ∨
      access op pre up rn rd offset s = s.fail .accessOutOfRange := by
  cases op with
  | ldr | ldrb => exact load_succeeds_or_fails ..
  | str | strb => exact store_succeeds_or_fails ..

/-- The effect of an instruction succeeds, or it is a failure and nothing else (60_exceptions.md R262). -/
theorem effect_succeeds_or_fails (f : Form) (s : State) :
    (effect f s).result = .succeeded ∨ ∃ c, effect f s = s.fail c := by
  cases f with
  | dpRsi | dpRsr | br => exact .inl rfl
  | lsImm | lsReg => exact (access_succeeds_or_fails ..).imp_right fun h => ⟨_, h⟩
  | none => exact .inr ⟨_, rfl⟩

/-- An instruction that did more than end the step passed its condition and succeeded in its effect. -/
theorem exec_effect_of_ne {i : Instr} {s t : State} (h : exec i s = .next t) (hskip : t ≠ s.succeed)
    (hfail : ∀ c, t ≠ s.fail c) : s.condPass i.cond = true ∧ t = effect i.toForm s ∧ t.result = .succeeded := by
  rcases exec_eq_next h with ⟨hc, rfl⟩ | rfl | rfl
  · refine ⟨hc, rfl, (effect_succeeds_or_fails i.toForm s).resolve_right ?_⟩
    rintro ⟨c, hx⟩
    exact hfail c hx
  · exact absurd rfl hskip
  · exact absurd rfl (hfail _)

/-! ### The CPSR -/

/-- Data processing writes the CPSR when `S = 1` or the operation is a compare (10_state.md R32). -/
theorem dataProcessing_cpsr (op : DpOp) (sBit : Bool) (rn rd : RegNum) (b : Word) (s : State) :
    (dataProcessing op sBit rn rd b s).cpsr =
      if sBit || op.isCompare then flagsOf (alu op (s.readReg rn.index) b s.cFlag) s.cpsr else s.cpsr := by
  rw [dataProcessing_eq]
  cases sBit || op.isCompare <;> cases op.isCompare <;> simp

@[simp] theorem State.cpsr_writeBack (s : State) (pre : Bool) (rn : RegNum) (index : Word) :
    (s.writeBack pre rn index).cpsr = s.cpsr := by
  cases pre <;> simp [State.writeBack]

theorem load_cpsr (w : Width) (pre up : Bool) (rn rd : RegNum) (offset : Word) (s : State) :
    (load w pre up rn rd offset s).cpsr = s.cpsr := by
  unfold load
  dsimp only
  split <;> simp

theorem store_cpsr (w : Width) (pre up : Bool) (rn rd : RegNum) (offset : Word) (s : State) :
    (store w pre up rn rd offset s).cpsr = s.cpsr := by
  unfold store
  dsimp only
  split <;> simp

theorem access_cpsr (op : LsOp) (pre up : Bool) (rn rd : RegNum) (offset : Word) (s : State) :
    (access op pre up rn rd offset s).cpsr = s.cpsr := by
  cases op with
  | ldr | ldrb => exact load_cpsr ..
  | str | strb => exact store_cpsr ..

theorem branch_cpsr (link : Bool) (k : BitVec 24) (s : State) : (branch link k s).cpsr = s.cpsr := by
  cases link <;> simp [branch_eq, State.cpsr]

/-- V and bits 27 to 0 are kept by a flag write, and so by data processing (10_state.md R30, R34). -/
theorem dataProcessing_cpsr_low (op : DpOp) (sBit : Bool) (rn rd : RegNum) (b : Word) (s : State) {k : Nat}
    (hk : k < 29) : (dataProcessing op sBit rn rd b s).cpsr.getLsbD k = s.cpsr.getLsbD k := by
  rw [dataProcessing_cpsr]
  split
  · rw [flagsOf_getLsbD _ _ _ (by omega), if_neg (by omega), if_neg (by omega), if_neg (by omega)]
  · rfl

theorem effect_cpsr_low (f : Form) (s : State) {k : Nat} (hk : k < 29) :
    (effect f s).cpsr.getLsbD k = s.cpsr.getLsbD k := by
  cases f with
  | dpRsi | dpRsr => exact dataProcessing_cpsr_low _ _ _ _ _ _ hk
  | lsImm | lsReg => exact congrArg (BitVec.getLsbD · k) (access_cpsr ..)
  | br => exact congrArg (BitVec.getLsbD · k) (branch_cpsr ..)
  | none => rfl

/-- Settles O42, by what the effect of each format does to the low bits. -/
theorem noInstructionWritesVOrTheLowCpsrBits : Obligations.NoInstructionWritesVOrTheLowCpsrBits := by
  intro i s t h k hk
  rcases exec_eq_next h with ⟨_, rfl⟩ | rfl | rfl
  · exact effect_cpsr_low _ _ hk
  · rfl
  · rfl

/-- Data processing with `S = 0` that is no compare keeps the CPSR. -/
theorem writesFlags_of_dataProcessing_cpsr_ne {op : DpOp} {sBit : Bool} {rn rd : RegNum} {b : Word} {s : State}
    (h : (dataProcessing op sBit rn rd b s).cpsr ≠ s.cpsr) : sBit = true ∨ op.isCompare = true := by
  rw [dataProcessing_cpsr] at h
  split at h
  next hwrites => simpa using hwrites
  next => exact absurd rfl h

theorem mayWriteFlags_of_effect_cpsr_ne {i : Instr} {s : State} (h : (effect i.toForm s).cpsr ≠ s.cpsr) :
    mayWriteFlags i := by
  unfold mayWriteFlags
  cases hf : i.toForm <;> rw [hf] at h
  case dpRsi | dpRsr => exact writesFlags_of_dataProcessing_cpsr_ne h
  case lsImm | lsReg => exact h (access_cpsr ..)
  case br => exact h (branch_cpsr ..)
  case none => exact h rfl

/-- Settles O43: what writes the CPSR is the effect of a flag-setting instruction. -/
theorem onlyFlagSettingInstructionsWriteTheCpsr : Obligations.OnlyFlagSettingInstructionsWriteTheCpsr := by
  intro i s t h hne
  obtain ⟨hc, rfl, hr⟩ := exec_effect_of_ne h (fun ht => hne (by simp [ht])) (fun c ht => hne (by simp [ht]))
  exact ⟨mayWriteFlags_of_effect_cpsr_ne hne, hc, hr⟩

/-! ### The PC -/

/-- The two cells of the PC: R15 and its shadow field (10_state.md R25). -/
def State.pcCells (s : State) : Word × Word := (s.readReg 15, s.pcShadow)

theorem State.pcCells_ne_iff (s t : State) :
    t.pcCells ≠ s.pcCells ↔ t.readReg 15 ≠ s.readReg 15 ∨ t.pcShadow ≠ s.pcShadow := by
  simp only [State.pcCells, ne_eq, Prod.mk.injEq, not_and_or]

@[simp] theorem State.pcCells_succeed (s : State) : s.succeed.pcCells = s.pcCells := rfl

@[simp] theorem State.pcCells_fail (s : State) (c : Cause) : (s.fail c).pcCells = s.pcCells := rfl

@[simp] theorem State.pcCells_memWrite (s : State) (addr : Word) (w : Width) (v : Word) :
    (s.memWrite addr w v).pcCells = s.pcCells := rfl

theorem State.pcCells_writeReg_of_ne (s : State) {i : Fin 17} (hi : i ≠ 15) (v : Word) :
    (s.writeReg i v).pcCells = s.pcCells := by
  simp [State.pcCells, hi]

theorem State.pcCells_writeReg_index (s : State) {r : RegNum} (hr : r ≠ 15) (v : Word) :
    (s.writeReg r.index v).pcCells = s.pcCells :=
  s.pcCells_writeReg_of_ne (by simpa using hr) v

theorem writesPc_of_dataProcessing_pcCells_ne {op : DpOp} {sBit : Bool} {rn rd : RegNum} {b : Word} {s : State}
    (h : (dataProcessing op sBit rn rd b s).pcCells ≠ s.pcCells) : op.isCompare = false ∧ rd = 15 := by
  by_contra hno
  have hdest : ∀ v, (if op.isCompare then s else s.writeReg rd.index v).pcCells = s.pcCells := by
    intro v
    split
    next => rfl
    next hcmp => exact s.pcCells_writeReg_index (fun hrd => hno ⟨by simpa using hcmp, hrd⟩) v
  refine h ?_
  rw [dataProcessing_eq]
  dsimp only
  rw [State.pcCells_succeed]
  split
  · rw [State.pcCells_writeReg_of_ne _ (by decide), hdest]
  · rw [hdest]

theorem State.pcCells_writeBack (s : State) {pre : Bool} {rn : RegNum} (h : ¬(pre = false ∧ rn = 15))
    (index : Word) : (s.writeBack pre rn index).pcCells = s.pcCells := by
  cases pre with
  | true => rfl
  | false => exact s.pcCells_writeReg_index (fun hrn => h ⟨rfl, hrn⟩) index

theorem load_pcCells (w : Width) {pre : Bool} (up : Bool) {rn rd : RegNum} (offset : Word) (s : State)
    (hrd : rd ≠ 15) (hrn : ¬(pre = false ∧ rn = 15)) : (load w pre up rn rd offset s).pcCells = s.pcCells := by
  unfold load
  dsimp only
  split
  · rw [State.pcCells_succeed, State.pcCells_writeBack _ hrn, State.pcCells_writeReg_index _ hrd]
  · rfl

theorem store_pcCells (w : Width) {pre : Bool} (up : Bool) {rn : RegNum} (rd : RegNum) (offset : Word) (s : State)
    (hrn : ¬(pre = false ∧ rn = 15)) : (store w pre up rn rd offset s).pcCells = s.pcCells := by
  unfold store
  dsimp only
  split
  · rw [State.pcCells_succeed, State.pcCells_writeBack _ hrn, State.pcCells_memWrite]
  · rfl

theorem writesPc_of_access_pcCells_ne {op : LsOp} {pre up : Bool} {rn rd : RegNum} {offset : Word} {s : State}
    (h : (access op pre up rn rd offset s).pcCells ≠ s.pcCells) :
    (op.lBit = true ∧ rd = 15) ∨ (pre = false ∧ rn = 15) := by
  by_contra hno
  obtain ⟨hload, hrn⟩ := not_or.mp hno
  cases op with
  | ldr | ldrb => exact h (load_pcCells _ _ _ _ (fun hrd => hload ⟨rfl, hrd⟩) hrn)
  | str | strb => exact h (store_pcCells _ _ _ _ _ hrn)

theorem mayWritePc_of_effect_pcCells_ne {i : Instr} {s : State} (h : (effect i.toForm s).pcCells ≠ s.pcCells) :
    mayWritePc i := by
  unfold mayWritePc
  cases hf : i.toForm <;> rw [hf] at h
  case dpRsi | dpRsr => exact writesPc_of_dataProcessing_pcCells_ne h
  case lsImm | lsReg => exact writesPc_of_access_pcCells_ne h
  case br => trivial
  case none => exact h rfl

/-- Settles O44: what changes the PC is the effect of an instruction of R28. -/
theorem onlyPcWritersChangeThePc : Obligations.OnlyPcWritersChangeThePc := by
  intro i s t h hne
  rw [← State.pcCells_ne_iff] at hne
  obtain ⟨hc, rfl, hr⟩ := exec_effect_of_ne h (fun ht => hne (by simp [ht])) (fun c ht => hne (by simp [ht]))
  exact ⟨mayWritePc_of_effect_pcCells_ne hne, hc, hr⟩

end Sys2Proof.Machine
end

section
/-! The memory family (20_memory.md): every step keeps the image well-formed, only stores change memory,
and a stored word is loaded back. -/

namespace Sys2Proof.Machine

open Sys2Proof.Claims

/-! ### What the boundary's operations that answer `t` did -/

/-- A word of a batch or the end of an empty one leaves what the instruction step left, or the old state,
but for the batch in progress and the reply (50_host_interface.md R241 to R244). -/
theorem stepBatch_eq_next {b : Batch} {s t : State} (h : stepBatch b s = .next t) :
    ∃ u batch reply, (u = s ∨ ∃ w, stepWord w s = .next u) ∧ t = { u with batch := batch, reply := reply } := by
  obtain ⟨words, count⟩ := b
  cases words with
  | nil => cases h; exact ⟨s, none, _, .inl rfl, rfl⟩
  | cons w rest =>
    obtain ⟨u, hu, rfl⟩ := mapNext_eq_next h
    refine ⟨u, (u.continueBatch rest count).batch, (u.continueBatch rest count).reply, .inr ⟨w, hu⟩, ?_⟩
    unfold State.continueBatch
    split
    · cases rest <;> rfl
    · rfl

/-- An `init` that is not refused resets the engine to a supported capacity, or clears the initialized bit
(50_host_interface.md R232, R233). -/
theorem initEngine_eq_next {size : Nat} {allocOk : Bool} {s t : State} (h : initEngine size allocOk s = .next t) :
    initCapacity size ≤ maxCapacity ∧
      ((allocOk = true ∧ t = ({ State.afterInit (initCapacity size) s.params with
          requests := s.requests }).respond (.ok true)) ∨
        (allocOk = false ∧ t = { s with initialized := false }.respond (.ok false))) := by
  unfold initEngine at h
  split at h
  next => cases h
  next hmax =>
    refine ⟨Nat.le_of_not_lt hmax, ?_⟩
    cases allocOk with
    | true => cases h; exact .inl ⟨rfl, rfl⟩
    | false => cases h; exact .inr ⟨rfl, rfl⟩

/-- The state with bytes written by the host: the capacity grown to hold them, the logical size raised to
their end (50_host_interface.md R234). -/
def State.hostWrite (addr : Nat) (data : List Byte) (s : State) : State :=
  { s with
    cap := grownCapacity s.cap (addr + data.length)
    memSize := max s.memSize (addr + data.length)
    mem := Memory.writeBytes s.mem addr data }

/-- A `writeMemory` that is not refused replies and changes nothing else, or writes its bytes within the
grown capacity, which is the old one or a supported one (50_host_interface.md R234). -/
theorem writeMemory_eq_next {addr : Nat} {data : List Byte} {allocOk : Bool} {s t : State}
    (h : writeMemory addr data allocOk s = .next t) :
    (∃ r, t = s.respond r) ∨
      (s.initialized = true ∧ addr + data.length ≤ (s.hostWrite addr data).cap ∧
        ((s.hostWrite addr data).cap ≤ maxCapacity ∨ (s.hostWrite addr data).cap = s.cap) ∧
        t = (s.hostWrite addr data).respond (.ok true)) := by
  unfold writeMemory at h
  dsimp only at h
  split at h
  next => cases h; exact .inl ⟨_, rfl⟩
  next hinit =>
    split_ifs at h with hempty hfailed hlarge <;> cases h
    · exact .inl ⟨_, rfl⟩
    · exact .inl ⟨_, rfl⟩
    · refine .inr ⟨by simpa using hinit, ?_⟩
      rcases Nat.lt_or_ge s.cap (addr + data.length) with hgrow | hfits
      · simp only [hgrow, decide_true, Bool.true_and, Bool.or_eq_true, decide_eq_true_eq, not_or, not_lt] at hlarge
        exact ⟨hlarge.2, .inl hlarge.1, rfl⟩
      · have hcap : (s.hostWrite addr data).cap = s.cap := grownCapacity_of_le hfits
        exact ⟨hfits.trans_eq hcap.symm, .inr hcap, rfl⟩

/-! ### The memory image -/

theorem one_le_initCapacity (size : Nat) : 1 ≤ initCapacity size := by
  unfold initCapacity
  split
  · decide
  · omega

/-- What an executor keeps on an initialized engine includes a well-formed image. -/
theorem Kept.imageWf {s t : State} (h : Kept s t) (hinit : s.initialized = true) (hs : s.ImageWf) : t.ImageWf := by
  obtain ⟨hwf, hbelow, hsize, hmax, hpos⟩ := hs
  refine ⟨h.memWf hwf, ?_, ?_, ?_, fun _ => ?_⟩
  · rw [h.memSize]; exact h.memBelow hinit hbelow
  · rw [h.memSize, h.cap]; exact hsize
  · rw [h.cap]; exact hmax
  · rw [h.cap]; exact hpos hinit

/-- Clearing the initialized bit keeps the image well-formed. -/
theorem State.ImageWf.uninitialized {s : State} (hs : s.ImageWf) : { s with initialized := false }.ImageWf := by
  obtain ⟨hwf, hbelow, hsize, hmax, _⟩ := hs
  exact ⟨hwf, hbelow, hsize, hmax, nofun⟩

/-- Bytes the host writes within a supported capacity keep the image well-formed. -/
theorem State.ImageWf.hostWrite {s : State} (hs : s.ImageWf) (hinit : s.initialized = true) {addr : Nat}
    {data : List Byte} (hfits : addr + data.length ≤ (s.hostWrite addr data).cap)
    (hmax : (s.hostWrite addr data).cap ≤ maxCapacity) : (s.hostWrite addr data).ImageWf := by
  obtain ⟨hwf, hbelow, hsize, _, hpos⟩ := hs
  have hle : s.cap ≤ (s.hostWrite addr data).cap := le_grownCapacity ..
  exact ⟨Memory.wf_writeBytes data addr hwf,
    Memory.below_writeBytes data (Nat.le_max_right ..) (Memory.below_mono (Nat.le_max_left ..) hbelow),
    Nat.max_le.mpr ⟨hsize.trans hle, hfits⟩, hmax, fun _ => (hpos hinit).trans hle⟩

theorem stepWord_imageWf {w : Word} {s t : State} (hs : s.ImageWf) (h : stepWord w s = .next t) : t.ImageWf := by
  rcases stepWord_cases w s with ⟨hinit, u, hu, _, hkept⟩ | ⟨_, hu⟩ <;> rw [hu] at h <;> cases h
  · exact hkept.imageWf hinit hs
  · exact hs

theorem executeInstruction_imageWf {w : Word} {s t : State} (hs : s.ImageWf)
    (h : executeInstruction w s = .next t) : t.ImageWf := by
  obtain ⟨u, hu, rfl⟩ := mapNext_eq_next h
  have hwf : u.ImageWf := stepWord_imageWf hs hu
  exact hwf

theorem stepBatch_imageWf {b : Batch} {s t : State} (hs : s.ImageWf) (h : stepBatch b s = .next t) :
    t.ImageWf := by
  obtain ⟨u, _, _, rfl | ⟨w, hu⟩, rfl⟩ := stepBatch_eq_next h
  · exact hs
  · have hwf : u.ImageWf := stepWord_imageWf hs hu
    exact hwf

theorem initEngine_imageWf {size : Nat} {allocOk : Bool} {s t : State} (hs : s.ImageWf)
    (h : initEngine size allocOk s = .next t) : t.ImageWf := by
  obtain ⟨hmax, ⟨_, rfl⟩ | ⟨_, rfl⟩⟩ := initEngine_eq_next h
  · exact State.afterInit_imageWf (one_le_initCapacity size) hmax s.params
  · exact hs.uninitialized

theorem writeMemory_imageWf {addr : Nat} {data : List Byte} {allocOk : Bool} {s t : State} (hs : s.ImageWf)
    (h : writeMemory addr data allocOk s = .next t) : t.ImageWf := by
  rcases writeMemory_eq_next h with ⟨r, rfl⟩ | ⟨hinit, hfits, hgrown, rfl⟩
  · exact hs
  · have hmax : (s.hostWrite addr data).cap ≤ maxCapacity := by
      obtain ⟨_, _, _, hcap, _⟩ := hs
      exact hgrown.elim id (·.trans_le hcap)
    exact hs.hostWrite hinit hfits hmax

theorem setRegister_imageWf {reg : Nat} {value : Word} {s t : State} (hs : s.ImageWf)
    (h : setRegister reg value s = .next t) : t.ImageWf := by
  obtain ⟨_, h⟩ := whenInitialized_eq_next h
  split at h <;> cases h <;> exact hs

theorem perform_imageWf {r : Transaction} {s t : State} (hs : s.ImageWf) (h : perform r s = .next t) :
    t.ImageWf := by
  cases r with
  | create => cases h; exact hs.uninitialized
  | init => exact initEngine_imageWf hs h
  | writeMemory => exact writeMemory_imageWf hs h
  | readMemory => cases h; exact hs
  | setRegister | setPC => exact setRegister_imageWf hs h
  | getRegister | getPC | getInstructionCount | getMemorySize =>
    obtain ⟨_, h⟩ := whenInitialized_eq_next h
    cases h
    exact hs
  | executeInstruction => exact executeInstruction_imageWf hs h
  | executeInstructions => exact stepBatch_imageWf hs h
  | destroy => cases h

/-- Settles O37, by the cases of a step: `init` and `writeMemory` alone set the sizes, both within the
supported capacity, and an access is checked against the logical size. -/
theorem stepKeepsTheImageWellFormed : Obligations.StepKeepsTheImageWellFormed := by
  intro s t hs h
  rcases step_eq_next h with ⟨b, _, hb⟩ | ⟨_, _, rfl⟩ | ⟨r, rest, _, _, hr⟩
  · exact stepBatch_imageWf (s := { s with reply := none }) hs hb
  · exact hs
  · exact perform_imageWf (s := { s with requests := rest, reply := none }) hs hr

/-! ### Which instructions change memory -/

theorem exec_eq_next_kept {i : Instr} {s t : State} (h : exec i s = .next t) : Kept s t := by
  obtain ⟨u, hu, hkept⟩ := exec_kept i s
  rw [hu] at h
  cases h
  exact hkept

theorem Kept.sameElsewhere {s t : State} (h : Kept s t) : SameElsewhere s t :=
  ⟨h.memSize, h.cap, h.icount, h.initialized, h.params, h.requests, h.batch, h.reply⟩

theorem dataProcessing_mem (op : DpOp) (sBit : Bool) (rn rd : RegNum) (b : Word) (s : State) :
    (dataProcessing op sBit rn rd b s).mem = s.mem := by
  rw [dataProcessing_eq]
  cases sBit || op.isCompare <;> cases op.isCompare <;> rfl

@[simp] theorem State.mem_writeBack (s : State) (pre : Bool) (rn : RegNum) (index : Word) :
    (s.writeBack pre rn index).mem = s.mem := by
  cases pre <;> rfl

theorem load_mem (w : Width) (pre up : Bool) (rn rd : RegNum) (offset : Word) (s : State) :
    (load w pre up rn rd offset s).mem = s.mem := by
  unfold load
  dsimp only
  split <;> simp

theorem branch_mem (link : Bool) (k : BitVec 24) (s : State) : (branch link k s).mem = s.mem := by
  cases link <;> rfl

theorem isStore_of_access_mem_ne {op : LsOp} {pre up : Bool} {rn rd : RegNum} {offset : Word} {s : State}
    (h : (access op pre up rn rd offset s).mem ≠ s.mem) : op.lBit = false := by
  cases op with
  | ldr | ldrb => exact absurd (load_mem ..) h
  | str | strb => rfl

theorem isStore_of_effect_mem_ne {i : Instr} {s : State} (h : (effect i.toForm s).mem ≠ s.mem) : isStore i := by
  unfold isStore
  cases hf : i.toForm <;> rw [hf] at h
  case dpRsi | dpRsr => exact h (dataProcessing_mem ..)
  case lsImm | lsReg => exact isStore_of_access_mem_ne h
  case br => exact h (branch_mem ..)
  case none => exact h rfl

/-- Settles O45: the frame is what every instruction keeps, and what changes memory is the effect of a
store. -/
theorem onlyStoresChangeMemory : Obligations.OnlyStoresChangeMemory := by
  intro i s t h
  refine ⟨(exec_eq_next_kept h).sameElsewhere, fun hne => ?_⟩
  obtain ⟨hc, rfl, hr⟩ := exec_effect_of_ne h (fun ht => hne (by simp [ht])) (fun c ht => hne (by simp [ht]))
  exact ⟨isStore_of_effect_mem_ne hne, hc, hr⟩

/-! ### A stored word -/

/-- Byte `k` of a stored word is its bits `8k+7` to `8k` (20_memory.md R53). -/
theorem State.byteAt_memWrite_word (s : State) (hm : Memory.wf s.mem = true) (addr v : Word) {k : Nat}
    (hk : k < 4) : (s.memWrite addr .word v).byteAt (addr.toNat + k) = v.extractLsb' (8 * k) 8 := by
  rw [State.byteAt_memWrite s hm, if_pos (by simp only [Width.bytes]; omega), Nat.add_sub_cancel_left]
  interval_cases k <;> rfl

theorem State.memRead_memWrite_word (s : State) (hm : Memory.wf s.mem = true) (addr v : Word) :
    (s.memWrite addr .word v).memRead addr .word = v := by
  have hbyte := fun k (hk : k < 4) => s.byteAt_memWrite_word hm addr v hk
  have hlow : (s.memWrite addr .word v).byteAt addr.toNat = v.extractLsb' 0 8 := hbyte 0 (by decide)
  simp only [State.memRead, hbyte 3 (by decide), hbyte 2 (by decide), hbyte 1 (by decide), hlow]
  rw [BitVec.extractLsb'_append_extractLsb'_eq_extractLsb', BitVec.extractLsb'_append_extractLsb'_eq_extractLsb',
    BitVec.extractLsb'_append_extractLsb'_eq_extractLsb', BitVec.extractLsb'_eq_self] <;> rfl

/-- Settles O58: the loads read the bytes the store wrote; the address of byte `k` does not wrap. -/
theorem storedWordIsLoadedBackByteByByte : Obligations.StoredWordIsLoadedBackByteByByte := by
  intro s addr v hm hfits
  refine ⟨s.memRead_memWrite_word hm addr v, fun k hk => ?_⟩
  have haddr : (addr + BitVec.ofNat 32 k).toNat = addr.toNat + k := by bv_omega
  simp only [State.memRead, haddr, s.byteAt_memWrite_word hm addr v hk]

end Sys2Proof.Machine
end

section
/-! The encoding family (30_encoding.md): decoding and encoding are inverse to each other, every word has
one row of the opcode table, and the bits that execution ignores. -/

namespace Sys2Proof

open Sys2Proof.Machine Sys2Proof.Claims

/-! ### Field values -/

@[simp] theorem Cond.ofBits_toBits (c : Cond) : Cond.ofBits c.toBits = c := by cases c <;> rfl

@[simp] theorem Cond.toBits_ofBits (b : BitVec 4) : (Cond.ofBits b).toBits = b := by decide +revert

@[simp] theorem ShiftType.ofBits_toBits (t : ShiftType) : ShiftType.ofBits t.toBits = t := by cases t <;> rfl

@[simp] theorem ShiftType.toBits_ofBits (b : BitVec 2) : (ShiftType.ofBits b).toBits = b := by decide +revert

@[simp] theorem DpOp.ofBits_toBits (op : DpOp) : DpOp.ofBits op.toBits = op := by cases op <;> rfl

@[simp] theorem DpOp.toBits_ofBits (b : BitVec 4) : (DpOp.ofBits b).toBits = b := by decide +revert

@[simp] theorem LsOp.ofBits_lBit_bBit (op : LsOp) : LsOp.ofBits op.lBit op.bBit = op := by cases op <;> rfl

@[simp] theorem LsOp.lBit_ofBits (l b : Bool) : (LsOp.ofBits l b).lBit = l := by cases l <;> cases b <;> rfl

@[simp] theorem LsOp.bBit_ofBits (l b : Bool) : (LsOp.ofBits l b).bBit = b := by cases l <;> cases b <;> rfl

@[simp] theorem toFin_regBits (r : RegNum) : (regBits r).toFin = r := rfl

theorem regBits_regField (w : Word) (lo : Nat) : regBits (regField w lo) = w.extractLsb' lo 4 := rfl

@[simp] theorem ofBool_beq_one (b : Bool) : (BitVec.ofBool b == 1#1) = b := by cases b <;> rfl

/-- A bit is the field of length 1 in its place. -/
theorem ofBool_getLsbD (w : Word) (k : Nat) : BitVec.ofBool (w.getLsbD k) = w.extractLsb' k 1 := by
  rw [BitVec.getLsbD_eq_extractLsb']
  generalize w.extractLsb' k 1 = b
  decide +revert

/-! ### The constant bits of each format -/

theorem extract_25_3 (w : Word) : w.extractLsb' 25 3 =
    BitVec.ofBool (w.getLsbD 27) ++ BitVec.ofBool (w.getLsbD 26) ++ BitVec.ofBool (w.getLsbD 25) := by
  simp (disch := rfl) only [ofBool_getLsbD, BitVec.extractLsb'_append_extractLsb'_eq_extractLsb']

theorem extract_26_2 (w : Word) :
    w.extractLsb' 26 2 = BitVec.ofBool (w.getLsbD 27) ++ BitVec.ofBool (w.getLsbD 26) := by
  simp (disch := rfl) only [ofBool_getLsbD, BitVec.extractLsb'_append_extractLsb'_eq_extractLsb']

theorem extract_4_1 (w : Word) : w.extractLsb' 4 1 = if w.getLsbD 4 then 0b1#1 else 0b0#1 := by
  rw [← ofBool_getLsbD]
  cases w.getLsbD 4 <;> rfl

theorem family_eq_dataProc_iff (w : Word) : family w = .dataProc ↔ w.extractLsb' 25 3 = 0b000#3 := by
  rw [extract_25_3, family]
  cases w.getLsbD 27 <;> cases w.getLsbD 26 <;> cases w.getLsbD 25 <;> decide

theorem family_eq_loadStore_iff (w : Word) : family w = .loadStore ↔
    w.extractLsb' 25 3 = if w.getLsbD 25 then (if !w.getLsbD 26 then 0b001#3 else 0b011#3) else 0b010#3 := by
  rw [extract_25_3, family]
  cases w.getLsbD 27 <;> cases w.getLsbD 26 <;> cases w.getLsbD 25 <;> decide

theorem family_eq_branch_iff (w : Word) : family w = .branch ↔ w.extractLsb' 26 2 = 0b10#2 := by
  rw [extract_26_2, family]
  cases w.getLsbD 27 <;> cases w.getLsbD 26 <;> cases w.getLsbD 25 <;> decide

theorem family_eq_illegal_iff (w : Word) : family w = .illegal ↔ w.extractLsb' 26 2 = 0b11#2 := by
  rw [extract_26_2, family]
  cases w.getLsbD 27 <;> cases w.getLsbD 26 <;> cases w.getLsbD 25 <;> decide

/-! ### The word of a decoded instruction -/

/-- In each format the constant bits of its table are those of the word (30_encoding.md R82, R83, R85 to
R87, R94), so that every part of the encoding is a field of the word; adjacent fields join. -/
theorem Form.encode_decode (w : Word) : (Form.decode w).encode = w := by
  unfold Form.decode decodeDataProcessing decodeLoadStore
  cases hf : family w
  case' dataProc =>
    have h25 := (family_eq_dataProc_iff w).1 hf
    have h4 := extract_4_1 w
    cases hb : w.getLsbD 4 <;> simp only [hb, if_true, Bool.false_eq_true, if_false, Form.encode] at h4 ⊢
    all_goals rw [← h25, ← h4]
  case' loadStore =>
    have h25 := (family_eq_loadStore_iff w).1 hf
    cases hb : w.getLsbD 25 <;> simp only [hb, if_true, Bool.false_eq_true, if_false, Form.encode] at h25 ⊢
    all_goals rw [← h25]
  case' branch => rw [Form.encode, ← (family_eq_branch_iff w).1 hf]
  case' illegal => rw [Form.encode, ← (family_eq_illegal_iff w).1 hf]
  all_goals
    simp (disch := rfl) only [condField, ofBool_getLsbD, regBits_regField, Cond.toBits_ofBits, DpOp.toBits_ofBits,
      ShiftType.toBits_ofBits, LsOp.lBit_ofBits, LsOp.bBit_ofBits, BitVec.ofNat_toNat, BitVec.setWidth_eq,
      BitVec.extractLsb'_append_extractLsb'_eq_extractLsb', BitVec.extractLsb'_eq_self]

/-- The numbers of a format fit its fields (30_encoding.md R90). -/
def Form.fits (f : Form) : Bool :=
  match f with
  | .dpRsi _ _ _ _ _ n _ _ => shamtFits n
  | .lsImm _ _ _ _ _ _ _ n => offsetFits n
  | .dpRsr .. | .lsReg .. | .br .. | .none .. => true

theorem wellFormed_eq_fits (i : Instr) : i.wellFormed = i.toForm.fits := by
  cases i <;> rfl

theorem Form.fits_decode (w : Word) : (Form.decode w).fits = true := by
  unfold Form.decode decodeDataProcessing decodeLoadStore
  cases family w
  case dataProc => cases w.getLsbD 4 with
    | true => rfl
    | false => exact decide_eq_true (w.extractLsb' 7 5).isLt
  case loadStore => cases w.getLsbD 25 with
    | true => rfl
    | false => exact decide_eq_true (w.extractLsb' 0 12).isLt
  case branch | illegal => rfl

/-- Settles O2, format by format: the fields of the word, put back in their places, are the word. -/
theorem encodeOfDecodeIsTheWord : Obligations.EncodeOfDecodeIsTheWord := by
  intro w
  rw [WellFormed, wellFormed_eq_fits, encode, decode, toForm_ofForm]
  exact ⟨Form.fits_decode w, Form.encode_decode w⟩

/-! ### The instruction of an encoded word -/

/-- The family of the words of a format (40_decode_condition.md R103). -/
def formFamily (f : Form) : Family :=
  match f with
  | .dpRsi .. | .dpRsr .. => .dataProc
  | .lsImm .. | .lsReg .. => .loadStore
  | .br .. => .branch
  | .none .. => .illegal

theorem family_encode (f : Form) : family f.encode = formFamily f := by
  rcases f with _ | _ | _ | ⟨_, _ | _⟩ | _ | _
  all_goals
    simp (disch := decide) only [family, BitVec.getLsbD_eq_extractLsb', Form.encode, formFamily,
      BitVec.extractLsb'_append_eq_of_le, BitVec.extractLsb'_append_eq_of_add_le, Nat.reduceSub, Nat.sub_self]
    rfl

/-- Each field is read at the place where the encoding puts it; the numbers that `Form.fits` bounds are
cut to their fields without loss. -/
theorem Form.decode_encode {f : Form} (h : f.fits = true) : Form.decode f.encode = f := by
  rw [Form.decode, family_encode]
  rcases f with ⟨_, _, _, _, _, n, _, _⟩ | _ | ⟨_, _, _, _, _, _, _, n⟩ | ⟨_, _ | _⟩ | _ | _
  all_goals
    simp (disch := decide) only [formFamily, decodeDataProcessing, decodeLoadStore, condField, regField,
      BitVec.getLsbD_eq_extractLsb', Form.encode, BitVec.extractLsb'_append_eq_of_le,
      BitVec.extractLsb'_append_eq_of_add_le, BitVec.extractLsb'_eq_self, Nat.reduceSub, Nat.sub_self]
    simp
  · exact of_decide_eq_true h
  · exact of_decide_eq_true h

theorem ofForm_toForm (i : Instr) : Instr.ofForm i.toForm = i := by
  cases i <;> rfl

/-- Settles O1, format by format: encoding then decoding gives the format and its fields again, and these
are the instruction's. -/
theorem decodeOfEncodeIsTheInstruction : Obligations.DecodeOfEncodeIsTheInstruction := by
  intro i h
  rw [WellFormed, wellFormed_eq_fits] at h
  rw [decode, encode, Form.decode_encode h, ofForm_toForm]

/-! ### Masked words -/

theorem getLsbD_and_of_true {w m : Word} {k : Nat} (h : m.getLsbD k = true) : (w &&& m).getLsbD k = w.getLsbD k := by
  rw [BitVec.getLsbD_and, h, Bool.and_true]

theorem getLsbD_and_of_false {w m : Word} {k : Nat} (h : m.getLsbD k = false) : (w &&& m).getLsbD k = false := by
  rw [BitVec.getLsbD_and, h, Bool.and_false]

theorem extract_and_of_allOnes {w m : Word} {lo n : Nat} (h : m.extractLsb' lo n = BitVec.allOnes n) :
    (w &&& m).extractLsb' lo n = w.extractLsb' lo n := by
  rw [BitVec.extractLsb'_and, h, BitVec.and_allOnes]

theorem extract_and_of_zero {w m : Word} {lo n : Nat} (h : m.extractLsb' lo n = 0#n) :
    (w &&& m).extractLsb' lo n = 0#n := by
  rw [BitVec.extractLsb'_and, h, BitVec.and_zero]

/-! ### The opcode table -/

/-- The mnemonic of a data-processing row (30_encoding.md R89). -/
def DpOp.mnemonic (op : DpOp) : String :=
  match op with
  | .and => "AND" | .eor => "EOR" | .sub => "SUB" | .rsb => "RSB"
  | .add => "ADD" | .adc => "ADC" | .sbc => "SBC" | .rsc => "RSC"
  | .tst => "TST" | .teq => "TEQ" | .cmp => "CMP" | .cmn => "CMN"
  | .orr => "ORR" | .mov => "MOV" | .bic => "BIC" | .mvn => "MVN"

/-- The mnemonic of a load/store row (30_encoding.md R91). -/
def LsOp.mnemonic (op : LsOp) : String :=
  match op with
  | .ldr => "LDR" | .ldrb => "LDRB" | .str => "STR" | .strb => "STRB"

/-- The bits that the rows of a family test (30_encoding.md R93). -/
def Family.mask (f : Family) : Word :=
  match f with
  | .dataProc => 0x0FE00010#32
  | .loadStore => 0x0F500000#32
  | .branch => 0x0D000000#32
  | .illegal => 0x0C000000#32

/-- The format with every field at 0 that its row leaves open. -/
def Form.clear (f : Form) : Form :=
  match f with
  | .dpRsi op .. => .dpRsi op .eq false 0 0 0 .lsl 0
  | .dpRsr op .. => .dpRsr op .eq false 0 0 0 false .lsl 0
  | .lsImm op pre .. => .lsImm op pre .eq false false 0 0 0
  | .lsReg op aliased pre .. => .lsReg op aliased pre .eq false false 0 0 0 0
  | .br link .. => .br link .eq false 0
  | .none .. => .none .eq 0

/-- The mnemonic and format of the row of a format. -/
def Form.rowName (f : Form) : String × String :=
  match f with
  | .dpRsi op .. => (op.mnemonic, "DP_RSI")
  | .dpRsr op .. => (op.mnemonic, "DP_RSR")
  | .lsImm op pre .. => (op.mnemonic, if pre then "LS_IMM.pre" else "LS_IMM.post")
  | .lsReg op aliased pre .. =>
    (if aliased then op.mnemonic ++ ".alias001" else op.mnemonic, if pre then "LS_REG.pre" else "LS_REG.post")
  | .br link .. => (if link then "BL" else "B", "BR")
  | .none .. => ("ILLEGAL", "NONE")

/-- The row of a format (30_encoding.md R93): its match is the encoding of what the row does not leave
open. -/
def Form.row (f : Form) : OpcodeRow := ⟨f.rowName.1, f.rowName.2, f.clear.encode, (formFamily f).mask⟩

theorem rowName_eq_toForm_rowName (i : Instr) : i.rowName = i.toForm.rowName := by
  cases i <;> rfl

theorem Form.row_mem_opcodeTable (f : Form) : f.row ∈ opcodeTable := by
  cases f <;> simp only [Form.row, Form.rowName, Form.clear, formFamily]
  case dpRsi op _ _ _ _ _ _ _ => cases op <;> decide
  case dpRsr op _ _ _ _ _ _ _ _ => cases op <;> decide
  case lsImm op pre _ _ _ _ _ _ => cases op <;> cases pre <;> decide
  case lsReg op aliased pre _ _ _ _ _ _ _ => cases op <;> cases aliased <;> cases pre <;> decide
  case br link _ _ _ => cases link <;> decide
  case none => decide

theorem formFamily_decode (w : Word) : formFamily (Form.decode w) = family w := by
  rw [← family_encode, Form.encode_decode]

theorem family_and_mask (w : Word) : family (w &&& (family w).mask) = family w := by
  simp only [family, BitVec.getLsbD_and]
  cases w.getLsbD 27 <;> cases w.getLsbD 26 <;> cases w.getLsbD 25 <;> rfl

/-- A family's mask keeps what the row fixes and clears every other field. -/
theorem Form.decode_and_mask (w : Word) : Form.decode (w &&& (family w).mask) = (Form.decode w).clear := by
  unfold Form.decode decodeDataProcessing decodeLoadStore
  rw [family_and_mask]
  cases family w
  all_goals
    simp (disch := decide) only [Family.mask, condField, regField, getLsbD_and_of_true, getLsbD_and_of_false,
      extract_and_of_allOnes, extract_and_of_zero]
  case dataProc => cases w.getLsbD 4 <;> rfl
  case loadStore => cases w.getLsbD 25 <;> rfl
  case branch | illegal => rfl

theorem Form.row_holds (w : Word) : (Form.decode w).row.holds w = true := by
  rw [OpcodeRow.holds, beq_iff_eq, Form.row, formFamily_decode, ← Form.decode_and_mask, Form.encode_decode]

/-- No word can match two rows: the matches of two rows differ in a bit that both test. -/
theorem eq_of_overlapping_rows :
    ∀ r ∈ opcodeTable, ∀ q ∈ opcodeTable, r.pattern &&& q.mask = q.pattern &&& r.mask → q = r := by
  decide +kernel

/-- Settles O3: the row of the decoded format holds, and no other row overlaps it. -/
theorem everyWordBelongsToExactlyOneRow : Obligations.EveryWordBelongsToExactlyOneRow := by
  intro w
  have hmem := Form.row_mem_opcodeTable (Form.decode w)
  have hrow := Form.row_holds w
  refine ⟨(Form.decode w).row, hmem, hrow, ?_, fun q hq hqw => ?_⟩
  · rw [rowName_eq_toForm_rowName, decode, toForm_ofForm]
    rfl
  · rw [OpcodeRow.holds, beq_iff_eq] at hrow hqw
    refine eq_of_overlapping_rows _ hmem q hq ?_
    rw [← hrow, ← hqw, BitVec.and_assoc, BitVec.and_assoc, BitVec.and_comm q.mask]

/-! ### Words that agree outside some bits -/

theorem extract_eq_of_agreeOutside {g w v : Word} (h : AgreeOutside g w v) {lo n : Nat}
    (hg : (~~~g).extractLsb' lo n = BitVec.allOnes n) : w.extractLsb' lo n = v.extractLsb' lo n := by
  rw [← extract_and_of_allOnes hg, h, extract_and_of_allOnes hg]

theorem getLsbD_eq_of_agreeOutside {g w v : Word} (h : AgreeOutside g w v) {k : Nat}
    (hg : (~~~g).getLsbD k = true) : w.getLsbD k = v.getLsbD k := by
  rw [← getLsbD_and_of_true hg, h, getLsbD_and_of_true hg]

theorem and_eq_of_agreeOutside {g m p w v : Word} (h : AgreeOutside g w v) (hm : m &&& ~~~g = m)
    (hw : w &&& m = p) : v &&& m = p := by
  rw [← hw, ← hm, BitVec.and_comm m, ← BitVec.and_assoc, ← BitVec.and_assoc, h]

theorem getLsbD_eq_true_of_and_eq {w m p : Word} (h : w &&& m = p) {k : Nat} (hp : p.getLsbD k = true) :
    w.getLsbD k = true := by
  rw [← h, BitVec.getLsbD_and, Bool.and_eq_true] at hp
  exact hp.1

theorem getLsbD_eq_false_of_and_eq {w m p : Word} (h : w &&& m = p) {k : Nat} (hm : m.getLsbD k = true)
    (hp : p.getLsbD k = false) : w.getLsbD k = false := by
  rw [← getLsbD_and_of_true hm, h, hp]

/-- Settles O6: the two words decode to the same format with the same fields but the condition, and both
conditions pass always. -/
theorem conditionFifteenExecutesAsAlways : Obligations.ConditionFifteenExecutesAsAlways := by
  intro w s hw
  have h : AgreeOutside 0x10000000#32 w (w &&& 0xEFFFFFFF#32) := by
    rw [AgreeOutside, BitVec.and_assoc]
    rfl
  have hnv : condField w = .nv := by
    rw [condField, hw]
    rfl
  have hal : condField (w &&& 0xEFFFFFFF#32) = .al := by
    rw [condField, BitVec.extractLsb'_and, hw]
    rfl
  generalize w &&& 0xEFFFFFFF#32 = v at h hal ⊢
  rw [exec_decode, exec_decode]
  simp (disch := decide) only [Form.decode, family, decodeDataProcessing, decodeLoadStore, regField, hnv, hal,
    extract_eq_of_agreeOutside h, getLsbD_eq_of_agreeOutside h]
  split
  · split <;> rfl
  · split <;> rfl
  · rfl
  · rfl

/-! ### Ignored bits -/

/-- A compare writes no register and always the flags (42_data_processing.md R152, R153). -/
theorem dataProcessing_of_isCompare {op : DpOp} (h : op.isCompare = true) (sBit sBit' : Bool) (rn rd rd' : RegNum)
    (b : Word) (s : State) : dataProcessing op sBit rn rd b s = dataProcessing op sBit' rn rd' b s := by
  simp only [dataProcessing, h, Bool.or_true, if_true]

/-- MOV and MVN, which have no first operand (42_data_processing.md R167, R169). -/
def DpOp.isMove (op : DpOp) : Bool :=
  match op with
  | .mov | .mvn => true
  | .and | .eor | .sub | .rsb | .add | .adc | .sbc | .rsc | .tst | .teq | .cmp | .cmn | .orr | .bic => false

theorem alu_of_isMove {op : DpOp} (h : op.isMove = true) (a a' b : Word) (cin : Bool) :
    alu op a b cin = alu op a' b cin := by
  cases op with
  | mov | mvn => rfl
  | _ => cases h

theorem dataProcessing_of_isMove {op : DpOp} (h : op.isMove = true) (sBit : Bool) (rn rn' rd : RegNum)
    (b : Word) (s : State) : dataProcessing op sBit rn rd b s = dataProcessing op sBit rn' rd b s := by
  simp only [dataProcessing, alu_of_isMove h (s.readReg rn.index) (s.readReg rn'.index)]

theorem DpOp.isCompare_ofBits (b : BitVec 4) : (DpOp.ofBits b).isCompare = (b.getLsbD 3 && !b.getLsbD 2) := by
  decide +revert

theorem DpOp.isMove_ofBits (b : BitVec 4) :
    (DpOp.ofBits b).isMove = (b.getLsbD 3 && b.getLsbD 2 && b.getLsbD 0) := by
  decide +revert

/-- Settles O5, row by row of `ignoredBits`: the two words decode to the same format with the same fields
outside the ignored ones, which the format's meaning does not read. Only for the compares and the moves
does that depend on the operation. -/
theorem dontCareBitsHaveNoEffect : Obligations.DontCareBitsHaveNoEffect := by
  intro mask pattern ignored hrow w v hw h s
  rw [exec_decode, exec_decode]
  simp only [ignoredBits, List.mem_cons, Prod.mk.injEq, List.not_mem_nil, or_false] at hrow
  rcases hrow with ⟨rfl, rfl, rfl⟩ | ⟨rfl, rfl, rfl⟩ | ⟨rfl, rfl, rfl⟩ | ⟨rfl, rfl, rfl⟩ | ⟨rfl, rfl, rfl⟩ |
    ⟨rfl, rfl, rfl⟩ | ⟨rfl, rfl, rfl⟩ | ⟨rfl, rfl, rfl⟩
  all_goals
    have hv := and_eq_of_agreeOutside h (by decide) hw
    simp (disch := decide) only [Form.decode, family, decodeDataProcessing, decodeLoadStore, condField, regField,
      getLsbD_eq_true_of_and_eq hw, getLsbD_eq_false_of_and_eq hw, getLsbD_eq_true_of_and_eq hv,
      getLsbD_eq_false_of_and_eq hv, extract_eq_of_agreeOutside h, getLsbD_eq_of_agreeOutside h, if_true,
      Bool.false_eq_true, if_false, runForm]
  · have hop : (DpOp.ofBits (v.extractLsb' 21 4)).isCompare = true := by
      simp (disch := decide) only [DpOp.isCompare_ofBits, BitVec.getLsbD_extractLsb', getLsbD_eq_true_of_and_eq hv,
        getLsbD_eq_false_of_and_eq hv]
      rfl
    cases v.getLsbD 4 <;>
      exact congrArg (whenPasses _ s) (funext fun _ => dataProcessing_of_isCompare hop ..)
  · have hop : (DpOp.ofBits (v.extractLsb' 21 4)).isMove = true := by
      simp (disch := decide) only [DpOp.isMove_ofBits, BitVec.getLsbD_extractLsb',
        getLsbD_eq_true_of_and_eq hv]
      rfl
    cases v.getLsbD 4 <;>
      exact congrArg (whenPasses _ s) (funext fun _ => dataProcessing_of_isMove hop ..)

end Sys2Proof
end

section
/-! The decode and condition family (40_decode_condition.md): what a presented word runs, the condition
table, words that are skipped, illegal or met before `init`, and the counter. -/

namespace Sys2Proof.Machine

open Sys2Proof.Claims

/-! ### The transaction a step takes -/

/-- The state with the oldest transaction taken and not yet answered. -/
def State.taking (rest : List Transaction) (s : State) : State := { s with requests := rest, reply := none }

/-- With no batch in progress a step performs the oldest transaction. -/
theorem step_of_request {s : State} {r : Transaction} {rest : List Transaction} (hb : s.batch = none)
    (hr : s.requests = r :: rest) : step s = perform r (s.taking rest) := by
  simp only [step, advance, State.taking, hb, hr]

theorem stepWord_of_initialized {s : State} (h : s.initialized = true) (w : Word) :
    stepWord w s = runWord w s.countStep := by
  simp only [stepWord, h, if_true]

theorem stepWord_of_uninitialized {s : State} (h : s.initialized = false) (w : Word) :
    stepWord w s = .next (s.fail .uninitialized) := by
  simp only [stepWord, h, Bool.false_eq_true, if_false]

/-- A presented word runs in the state `begun` names, and the result bit answers it. -/
theorem step_of_presents {s : State} {w : Word} {rest : List Transaction} (h : Presents s w rest) :
    step s = mapNext (fun t => t.respond (.ok t.result.ok)) (runWord w (begun s rest)) := by
  obtain ⟨hinit, hb, hr⟩ := h
  rw [step_of_request hb hr, perform, executeInstruction, stepWord_of_initialized (s := s.taking rest) hinit]
  rfl

/-- `step_of_presents` where what the word runs is known. -/
theorem step_of_presents_of_runWord {s t : State} {w : Word} {rest : List Transaction} (h : Presents s w rest)
    (hrun : runWord w (begun s rest) = .next t) : step s = .next (t.respond (.ok t.result.ok)) := by
  rw [step_of_presents h, hrun, mapNext_next]

@[simp] theorem begun_condPass (s : State) (rest : List Transaction) (c : Cond) :
    (begun s rest).condPass c = s.condPass c := by
  cases c <;> rfl

/-! ### The instruction a word runs -/

theorem runWord_of_loadStore {s : State} (h : s.params.decode001 = .loadStore) (w : Word) :
    runWord w s = exec (decode w) s := by
  simp only [runWord, h]

theorem runWord_of_not_word001 {w : Word} (h : isWord001 w = false) (s : State) :
    runWord w s = exec (decode w) s := by
  cases hd : s.params.decode001 <;> simp only [runWord, hd, h]

theorem runWord_of_dataProcImm {s : State} (h : s.params.decode001 = .dataProcImm) {w : Word}
    (hw : isWord001 w = true) : runWord w s = execDataProcImm (decodeDpImm w) s := by
  simp only [runWord, h, hw]

theorem withFetchWord_presents {s : State} (h : s.initialized = true) (nbits w : Nat) :
    Presents (s.withFetchWord nbits w) (BitVec.ofNat 32 (w % 2 ^ nbits)) s.requests :=
  ⟨h, rfl, rfl⟩

theorem decodeTableWord_eq_some {nbits w : Nat} {i : Instr} (h : decodeTableWord nbits w = some i) :
    i = decode (BitVec.ofNat 32 (w % 2 ^ nbits)) := by
  unfold decodeTableWord at h
  split at h
  next hfits => rw [Nat.mod_eq_of_lt hfits.2]; exact (Option.some.inj h).symm
  next => cases h

/-- Settles O8: both ways of presenting a word are `Presents`. -/
theorem stepRunsThePresentedInstruction : Obligations.StepRunsThePresentedInstruction := by
  refine ⟨fun s w rest h hp => ?_, fun s nbits w i hinit hp hi => ?_⟩
  · rw [step_of_presents h, runWord_of_loadStore (s := begun s rest) hp]
    rfl
  · rw [step_of_presents (withFetchWord_presents hinit nbits w), decodeTableWord_eq_some hi,
      runWord_of_loadStore (s := begun (s.withFetchWord nbits w) s.requests) hp]
    rfl

/-! ### The condition -/

/-- Settles O9, each of the sixteen encodings by its arm of `condPass`. -/
theorem conditionTableHolds : Obligations.ConditionTableHolds := by
  intro s n z c v pass
  have hnot (b : Bool) : (!b) = true ↔ b = false := .of_eq (Bool.not_eq_true' b)
  exact ⟨.rfl, hnot z, .rfl, hnot c, .rfl, hnot n, .rfl, hnot v,
    Bool.and_eq_true_iff.trans (and_congr_right' (hnot z)), Bool.or_eq_true_iff.trans (or_congr_left (hnot c)),
    beq_iff_eq, bne_iff_ne, Bool.and_eq_true_iff.trans (and_congr (hnot z) beq_iff_eq),
    Bool.or_eq_true_iff.trans (or_congr_right bne_iff_ne), rfl, rfl⟩

/-- Every format keeps the condition field (30_encoding.md R80). -/
theorem formCond_decode (w : Word) : formCond (Form.decode w) = condField w := by
  unfold Form.decode decodeDataProcessing decodeLoadStore
  cases family w
  case dataProc => cases w.getLsbD 4 <;> rfl
  case loadStore => cases w.getLsbD 25 <;> rfl
  case branch | illegal => rfl

theorem cond_decode (w : Word) : (decode w).cond = condField w := by
  rw [cond_eq_formCond, decode, toForm_ofForm, formCond_decode]

/-- A word whose condition is false succeeds and changes nothing, in either `DECODE_001` (R102). -/
theorem runWord_of_skip {w : Word} {s : State} (hc : s.condPass (condField w) = false)
    (hp : s.params.illegalBeforeCond = false) : runWord w s = .next s.succeed := by
  have hexec : exec (decode w) s = .next s.succeed := exec_of_skip (by rwa [cond_decode]) hp
  cases hd : s.params.decode001 with
  | loadStore => rw [runWord_of_loadStore hd, hexec]
  | dataProcImm =>
    cases hw : isWord001 w with
    | false => rw [runWord_of_not_word001 hw, hexec]
    | true => rw [runWord_of_dataProcImm hd hw]; exact whenPasses_of_skip _ hc

/-- Settles O10: the presented word is skipped in the state the step starts from. -/
theorem skippedWordChangesOnlyTheCounter : Obligations.SkippedWordChangesOnlyTheCounter := by
  intro s w rest h hp hc
  exact step_of_presents_of_runWord h (runWord_of_skip ((begun_condPass ..).trans hc) hp)

/-! ### The illegal class -/

theorem decode_of_illegal {w : Word} (h : family w = .illegal) :
    decode w = .illegal (condField w) (w.extractLsb' 0 26) := by
  rw [decode, Form.decode, h]
  rfl

/-- The words of DP_IMM are load/store words in the normative decode, so no illegal word is one. -/
theorem family_of_word001 {w : Word} (h : isWord001 w = true) : family w = .loadStore := by
  simp only [isWord001, Bool.and_eq_true, Bool.not_eq_true'] at h
  obtain ⟨⟨h27, h26⟩, h25⟩ := h
  simp only [family, h27, h26, h25]

theorem isWord001_of_illegal {w : Word} (h : family w = .illegal) : isWord001 w = false := by
  cases hw : isWord001 w with
  | false => rfl
  | true => rw [family_of_word001 hw] at h; cases h

/-- An illegal instruction that passes its condition, or is tested before it, fails (R108, D6). -/
theorem exec_illegal {c : Cond} {s : State} (h : s.condPass c = true ∨ s.params.illegalBeforeCond = true)
    (g : BitVec 26) : exec (.illegal c g) s = .next (s.fail .illegalInstruction) := by
  rcases h with hc | hp
  · exact exec_of_pass hc
  · simp only [exec, execIllegal, hp, if_true]

theorem runWord_of_illegal {w : Word} {s : State} (hw : family w = .illegal)
    (h : s.condPass (condField w) = true ∨ s.params.illegalBeforeCond = true) :
    runWord w s = .next (s.fail .illegalInstruction) := by
  rw [runWord_of_not_word001 (isWord001_of_illegal hw), decode_of_illegal hw, exec_illegal h]

/-- Settles O11: bits 27:26 equal to 11 are the illegal family. -/
theorem illegalInstructionFailsAndChangesNothing : Obligations.IllegalInstructionFailsAndChangesNothing := by
  refine ⟨fun w hw => decode_of_illegal ((family_eq_illegal_iff w).2 hw), fun c g s h => exec_illegal h g,
    fun s w rest h hw hfails => ?_⟩
  rw [← begun_condPass s rest] at hfails
  exact step_of_presents_of_runWord h (runWord_of_illegal ((family_eq_illegal_iff w).2 hw) hfails)

/-! ### Completion -/

theorem effect_succeeds_or_isIllegal_or_isLoadStore (i : Instr) (s : State) :
    (effect i.toForm s).result = .succeeded ∨ isIllegal i ∨ isLoadStore i := by
  unfold isIllegal isLoadStore
  cases i.toForm with
  | dpRsi | dpRsr | br => exact .inl rfl
  | lsImm | lsReg => exact .inr (.inr trivial)
  | none => exact .inr (.inl trivial)

theorem isIllegal_of_toForm {i : Instr} {c : Cond} {g : BitVec 26} (h : i.toForm = .none c g) : isIllegal i := by
  simp only [isIllegal, h]

/-- Settles O48, by the cases of an instruction: its effect, a skip, or an illegal word's failure. -/
theorem everyInstructionCompletes : Obligations.EveryInstructionCompletes := by
  intro i s
  rcases exec_cases i s with ⟨_, hx⟩ | ⟨_, hx⟩ | ⟨_, _, ⟨c, g, hf⟩, hx⟩
  · exact ⟨_, hx, effect_succeeds_or_isIllegal_or_isLoadStore i s⟩
  · exact ⟨_, hx, .inl rfl⟩
  · exact ⟨_, hx, .inr (.inl (isIllegal_of_toForm hf))⟩

/-! ### Words and memory operations before `init` -/

theorem executeInstruction_of_uninitialized {s : State} (h : s.initialized = false) (w : Word) :
    executeInstruction w s = .next ((s.fail .uninitialized).respond (.ok false)) := by
  rw [executeInstruction, stepWord_of_uninitialized h]
  rfl

/-- The first word of a batch fails and ends it. -/
theorem stepBatch_of_uninitialized {s : State} (h : s.initialized = false) (w : Word) (rest : List Word)
    (count : Nat) : stepBatch ⟨w :: rest, count⟩ s =
      .next { s.fail .uninitialized with batch := none, reply := some (.count count) } := by
  simp only [stepBatch, stepWord_of_uninitialized h]
  rfl

theorem readMemory_of_uninitialized {s : State} (h : s.initialized = false) (addr len : Nat) :
    readMemory addr len s = .next (s.respond (.bytes none)) := by
  simp only [readMemory, h, Bool.false_and, Bool.false_eq_true, if_false]

theorem writeMemory_of_uninitialized {s : State} (h : s.initialized = false) (addr : Nat) (data : List Byte)
    (allocOk : Bool) : writeMemory addr data allocOk s = .next (s.respond (.ok false)) := by
  simp only [writeMemory, h, Bool.not_false, if_true]

/-- Settles O57, transaction by transaction. -/
theorem uninitializedEngineFailsEveryWord : Obligations.UninitializedEngineFailsEveryWord := by
  intro s rest hinit hb
  have htaken : (s.taking rest).initialized = false := hinit
  refine ⟨fun w hr => ?_, fun w ws hr => ?_, fun a n hr => ?_, fun a d b hr => ?_⟩ <;>
    rw [step_of_request hb hr, perform]
  · rw [executeInstruction_of_uninitialized htaken]
    rfl
  · rw [stepBatch_of_uninitialized htaken, ← hb]
    rfl
  · rw [readMemory_of_uninitialized htaken]
    rfl
  · rw [writeMemory_of_uninitialized htaken]
    rfl

/-! ### The counter -/

/-- The counter after a step that executes `word`, if any: it counts a word on an initialized engine
(40_decode_condition.md R101, R110). -/
def State.icountAfter (s : State) (word : Option Word) : BitVec 64 :=
  if word.isSome && s.initialized then s.icount + 1 else s.icount

theorem icountAfter_none (s : State) : s.icountAfter none = s.icount := rfl

theorem stepWord_icount {w : Word} {s t : State} (h : stepWord w s = .next t) :
    t.icount = s.icountAfter (some w) := by
  rcases stepWord_cases w s with ⟨hinit, u, hu, _, hkept⟩ | ⟨hinit, hu⟩ <;> rw [hu] at h <;> cases h
  · simp [State.icountAfter, hinit, hkept.icount]
  · simp [State.icountAfter, hinit]

theorem executeInstruction_icount {w : Word} {s t : State} (h : executeInstruction w s = .next t) :
    t.icount = s.icountAfter (some w) := by
  obtain ⟨u, hu, rfl⟩ := mapNext_eq_next h
  rw [State.respond_icount]
  exact stepWord_icount hu

@[simp] theorem State.icount_continueBatch (s : State) (rest : List Word) (count : Nat) :
    (s.continueBatch rest count).icount = s.icount := by
  unfold State.continueBatch
  split
  · cases rest <;> rfl
  · rfl

theorem stepBatch_icount {b : Batch} {s t : State} (h : stepBatch b s = .next t) :
    t.icount = s.icountAfter b.words.head? := by
  obtain ⟨words, count⟩ := b
  cases words with
  | nil => cases h; rfl
  | cons w rest =>
    obtain ⟨u, hu, rfl⟩ := mapNext_eq_next h
    rw [State.icount_continueBatch]
    exact stepWord_icount hu

theorem writeMemory_icount {addr : Nat} {data : List Byte} {allocOk : Bool} {s t : State}
    (h : writeMemory addr data allocOk s = .next t) : t.icount = s.icount := by
  rcases writeMemory_eq_next h with ⟨r, rfl⟩ | ⟨_, _, _, rfl⟩ <;> rfl

theorem setRegister_icount {reg : Nat} {value : Word} {s t : State} (h : setRegister reg value s = .next t) :
    t.icount = s.icount := by
  obtain ⟨_, h⟩ := whenInitialized_eq_next h
  split at h <;> cases h <;> rfl

/-- The word a transaction executes in the step that takes it, if any. -/
def Transaction.word (r : Transaction) : Option Word :=
  match r with
  | .executeInstruction w => some w
  | .executeInstructions ws => ws.head?
  | _ => none

theorem nextWord_of_batch {s : State} {b : Batch} (hb : s.batch = some b) : nextWord s = b.words.head? := by
  simp only [nextWord, hb]

theorem nextWord_of_request {s : State} {r : Transaction} {rest : List Transaction} (hb : s.batch = none)
    (hr : s.requests = r :: rest) : nextWord s = r.word := by
  cases r <;> simp only [nextWord, hb, hr, Transaction.word]

theorem nextWord_of_idle {s : State} (hb : s.batch = none) (hr : s.requests = []) : nextWord s = none := by
  simp only [nextWord, hb, hr]

/-- No transaction but a successful `init` sets the counter, and none counts but for its word. -/
theorem perform_icount {r : Transaction} {s t : State} (hno : ∀ size, r ≠ .init size true)
    (h : perform r s = .next t) : t.icount = s.icountAfter r.word := by
  cases r with
  | create => cases h; rfl
  | init size allocOk =>
    obtain ⟨_, ⟨rfl, _⟩ | ⟨_, rfl⟩⟩ := initEngine_eq_next h
    · exact absurd rfl (hno size)
    · rfl
  | writeMemory => exact writeMemory_icount h
  | readMemory => cases h; rfl
  | setRegister | setPC => exact setRegister_icount h
  | getRegister | getPC | getInstructionCount | getMemorySize =>
    obtain ⟨_, h⟩ := whenInitialized_eq_next h
    cases h
    rfl
  | executeInstruction => exact executeInstruction_icount h
  | executeInstructions => exact stepBatch_icount h
  | destroy => cases h

theorem step_icount {s t : State} (hno : ¬ succeedsAsInit s) (h : step s = .next t) :
    t.icount = s.icountAfter (nextWord s) := by
  rcases step_eq_next h with ⟨b, hb, hx⟩ | ⟨hb, hr, rfl⟩ | ⟨r, rest, hb, hr, hx⟩
  · rw [nextWord_of_batch hb]
    exact stepBatch_icount (s := { s with reply := none }) hx
  · rw [nextWord_of_idle hb hr, icountAfter_none]
  · rw [nextWord_of_request hb hr]
    exact perform_icount (s := s.taking rest) (fun size hinit => hno ⟨hb, size, rest, hinit ▸ hr⟩) hx

theorem step_icount_of_succeedsAsInit {s t : State} (hs : succeedsAsInit s) (h : step s = .next t) :
    t.icount = 0 := by
  obtain ⟨hb, size, rest, hr⟩ := hs
  rw [step_of_request hb hr] at h
  obtain ⟨_, ⟨_, rfl⟩ | ⟨hfalse, _⟩⟩ := initEngine_eq_next h
  · rfl
  · cases hfalse

theorem nextWord_of_succeedsAsInit {s : State} (hs : succeedsAsInit s) : nextWord s = none := by
  obtain ⟨hb, size, rest, hr⟩ := hs
  exact nextWord_of_request hb hr

/-- Settles O47: a step that executes a word is no `init`, so `icountAfter` says what it counts. -/
theorem counterCountsInstructionSteps : Obligations.CounterCountsInstructionSteps := by
  intro s t h
  have hword (hw : (nextWord s).isSome = true) : t.icount = s.icountAfter (nextWord s) :=
    step_icount (fun hs => by simp [nextWord_of_succeedsAsInit hs] at hw) h
  refine ⟨fun hw hinit => ?_, fun hw hinit => ?_, fun hs => step_icount_of_succeedsAsInit hs h,
    fun hw hs => ?_⟩
  · simpa [State.icountAfter, hw, hinit] using hword hw
  · simpa [State.icountAfter, hinit] using hword hw
  · simpa [State.icountAfter, hw] using step_icount hs h

end Sys2Proof.Machine
end

section
/-! The barrel shifter family (41_barrel_shifter.md): the four shifts as integer arithmetic, and the
data-processing words with a rotated immediate. -/

namespace Sys2Proof.Machine

open Sys2Proof.Claims

/-! ### The cases of `shift` -/

@[simp] theorem shift_zero (g : ShiftGe32) (t : ShiftType) (v : Word) : shift g t v 0 = v := if_pos rfl

theorem shift_of_lt (g : ShiftGe32) (t : ShiftType) (v : Word) {n : Nat} (h0 : n ≠ 0) (h : n < 32) :
    shift g t v n = shiftBelow32 t v n := by
  simp only [shift, h0, h, if_false, if_true]

theorem shift_mathematical_of_ge (t : ShiftType) (v : Word) {n : Nat} (h : 32 ≤ n) :
    shift .mathematical t v n = shiftFrom32 t v n := by
  rw [shift, if_neg (by omega), if_neg (by omega)]

/-! ### The shifts on integers -/

theorem shiftLeft_eq_ofNat (v : Word) (n : Nat) : v <<< n = BitVec.ofNat 32 (v.toNat * 2 ^ n) := by
  apply BitVec.eq_of_toNat_eq
  rw [BitVec.toNat_shiftLeft, Nat.shiftLeft_eq, BitVec.toNat_ofNat]

theorem ushiftRight_eq_ofNat (v : Word) (n : Nat) : v >>> n = BitVec.ofNat 32 (v.toNat / 2 ^ n) := by
  rw [← Nat.shiftRight_eq_div_pow, ← BitVec.toNat_ushiftRight, BitVec.ofNat_toNat, BitVec.setWidth_eq]

theorem sshiftRight_eq_wrap (v : Word) (n : Nat) : v.sshiftRight n = wrap (v.toInt / 2 ^ n) := by
  rw [BitVec.sshiftRight, Int.shiftRight_eq_div_pow, wrap]
  norm_cast

/-- A rotation's two halves do not overlap, so their bitwise or is their sum. -/
theorem ror32_eq_ofNat (v : Word) {n : Nat} (h : n < 32) :
    ror32 v n = BitVec.ofNat 32 (v.toNat / 2 ^ n + v.toNat % 2 ^ n * 2 ^ (32 - n)) := by
  by_cases h0 : n = 0
  · simp [ror32, h0, Nat.mod_one]
  have hpow : 2 ^ 32 = 2 ^ (32 - n) * 2 ^ n := by rw [← Nat.pow_add, Nat.sub_add_cancel h.le]
  have hlow : v.toNat / 2 ^ n < 2 ^ (32 - n) := Nat.div_lt_of_lt_mul (by rw [Nat.mul_comm, ← hpow]; exact v.isLt)
  have hhigh : v.toNat * 2 ^ (32 - n) % 2 ^ 32 = 2 ^ (32 - n) * (v.toNat % 2 ^ n) := by
    rw [hpow, Nat.mul_comm, Nat.mul_mod_mul_left]
  have hor : (v >>> n ||| v <<< (32 - n)).toNat = v.toNat / 2 ^ n + v.toNat % 2 ^ n * 2 ^ (32 - n) := by
    rw [BitVec.toNat_or, BitVec.toNat_ushiftRight, BitVec.toNat_shiftLeft, Nat.shiftLeft_eq, hhigh,
      Nat.shiftRight_eq_div_pow, Nat.or_comm, ← Nat.two_pow_add_eq_or_of_lt hlow, Nat.add_comm, Nat.mul_comm]
  rw [ror32, if_neg h0, ← hor, BitVec.ofNat_toNat, BitVec.setWidth_eq]

theorem shiftBelow32_eq_mathematicalShift (t : ShiftType) (v : Word) {n : Nat} (h : n < 32) :
    shiftBelow32 t v n = mathematicalShift t v n := by
  cases t with
  | lsl => exact shiftLeft_eq_ofNat v n
  | lsr => exact ushiftRight_eq_ofNat v n
  | asr => exact sshiftRight_eq_wrap v n
  | ror => rw [shiftBelow32, mathematicalShift, Nat.mod_eq_of_lt h, ror32_eq_ofNat v h]

theorem mathematicalShift_zero (t : ShiftType) (v : Word) : mathematicalShift t v 0 = v := by
  rw [← shiftBelow32_eq_mathematicalShift t v (by decide)]
  cases t <;> simp [shiftBelow32, ror32]

/-- An arithmetic shift by the width or more leaves copies of the sign bit. -/
theorem sshiftRight_of_ge (v : Word) {n : Nat} (h : 32 ≤ n) :
    v.sshiftRight n = if v.getLsbD 31 then 0xFFFFFFFF#32 else 0 := by
  rw [show v.getLsbD 31 = v.msb from (BitVec.msb_eq_getLsbD_last v).symm]
  cases hmsb : v.msb with
  | false => rw [BitVec.sshiftRight_eq_of_msb_false hmsb, BitVec.ushiftRight_eq_zero h]; rfl
  | true => rw [BitVec.sshiftRight_eq_of_msb_true hmsb, BitVec.ushiftRight_eq_zero h]; rfl

/-- A shift by the width or more leaves the values that D9 names. -/
theorem shiftFrom32_eq_mathematicalShift (t : ShiftType) (v : Word) {n : Nat} (h : 32 ≤ n) :
    shiftFrom32 t v n = mathematicalShift t v n := by
  cases t with
  | lsl => exact (BitVec.shiftLeft_eq_zero h).symm.trans (shiftLeft_eq_ofNat v n)
  | lsr => exact (BitVec.ushiftRight_eq_zero h).symm.trans (ushiftRight_eq_ofNat v n)
  | asr => exact (sshiftRight_of_ge v h).symm.trans (sshiftRight_eq_wrap v n)
  | ror => exact ror32_eq_ofNat v (Nat.mod_lt n (by decide))

theorem shift_eq_mathematicalShift (g : ShiftGe32) (t : ShiftType) (v : Word) {n : Nat}
    (h : n < 32 ∨ g = .mathematical) : shift g t v n = mathematicalShift t v n := by
  by_cases h0 : n = 0
  · rw [h0, shift_zero, mathematicalShift_zero]
  by_cases hn : n < 32
  · rw [shift_of_lt g t v h0 hn, shiftBelow32_eq_mathematicalShift t v hn]
  · obtain rfl := h.resolve_left hn
    rw [shift_mathematical_of_ge t v (by omega), shiftFrom32_eq_mathematicalShift t v (by omega)]

/-- Settles O12: the cases of `shift` by amount agree with the integer shift. -/
theorem shiftIsTheMathematicalShift : Obligations.ShiftIsTheMathematicalShift := by
  intro g t v n _ hg
  refine ⟨shift_eq_mathematicalShift g t v hg, shift_zero g t v, fun hn => ?_⟩
  obtain rfl := hg.resolve_left (by omega)
  exact ⟨shift_mathematical_of_ge .lsl v hn, shift_mathematical_of_ge .lsr v hn, shift_mathematical_of_ge .asr v hn⟩

end Sys2Proof.Machine

namespace Sys2Proof.Claims

open Sys2Proof.Machine

/-! ### The registers a frame names -/

@[simp] theorem only_nil (q : RegNum) : only [] q = none := rfl

@[simp] theorem only_singleton (r q : RegNum) (v : Word) :
    only [(r, v)] q = if r = q then some v else none := by
  by_cases h : r = q
  · simp [only, h]
  · have hq : (q == r) = false := beq_false_of_ne (Ne.symm h)
    simp [only, List.lookup, h, hq]

theorem RegsAre.refl (s : State) : RegsAre s s (only []) := ⟨fun _ => rfl, rfl, rfl, rfl⟩

theorem regsAre_writeReg (s : State) (r : RegNum) (v : Word) : RegsAre s (s.writeReg r.index v) (only [(r, v)]) := by
  constructor
  case register =>
    intro q
    by_cases h : r = q <;> simp [h]
  case pcShadow => by_cases h : r = 15 <;> simp [h]
  case spShadow => by_cases h : r = 13 <;> simp [h]
  case lrShadow => by_cases h : r = 14 <;> simp [h]

/-- A write of the CPSR writes none of the registers a field names. -/
theorem RegsAre.writeReg_cpsr {s t : State} {written : RegNum → Option Word} (h : RegsAre s t written) (v : Word) :
    RegsAre s (t.writeReg 16 v) written where
  register q := by simpa using h.register q
  pcShadow := h.pcShadow
  spShadow := h.spShadow
  lrShadow := h.lrShadow

theorem RegsAre.succeed {s t : State} {written : RegNum → Option Word} (h : RegsAre s t written) :
    RegsAre s t.succeed written :=
  ⟨h.register, h.pcShadow, h.spShadow, h.lrShadow⟩

end Sys2Proof.Claims

namespace Sys2Proof.Machine

open Sys2Proof.Claims

/-! ### What data processing leaves -/

/-- The one register written: `Rd`, unless the operation is a compare. -/
theorem dataProcessing_regsAre (op : DpOp) (sBit : Bool) (rn rd : RegNum) (b : Word) (s : State) :
    RegsAre s (dataProcessing op sBit rn rd b s)
      (only (if op.isCompare then [] else [(rd, (alu op (s.readReg rn.index) b s.cFlag).result)])) := by
  rw [dataProcessing_eq]
  apply RegsAre.succeed
  have hrd (v : Word) : RegsAre s (if op.isCompare then s else s.writeReg rd.index v)
      (only (if op.isCompare then [] else [(rd, v)])) := by
    cases op.isCompare with
    | true => exact .refl s
    | false => exact regsAre_writeReg s rd v
  cases sBit || op.isCompare with
  | true => exact (hrd _).writeReg_cpsr _
  | false => exact hrd _

theorem dataProcessing_flagsAre (op : DpOp) (sBit : Bool) (rn rd : RegNum) (b : Word) (s : State) :
    FlagsAre s (dataProcessing op sBit rn rd b s) (sBit || op.isCompare)
      (alu op (s.readReg rn.index) b s.cFlag).result (alu op (s.readReg rn.index) b s.cFlag).carry where
  n := by
    rw [State.nFlag, dataProcessing_cpsr, sign_eq_getLsbD]
    split
    · exact flagsOf_getLsbD _ _ 31 (by decide)
    · rfl
  z := by
    rw [State.zFlag, dataProcessing_cpsr, zero_eq_toNat]
    split
    · exact flagsOf_getLsbD _ _ 30 (by decide)
    · rfl
  c := by
    rw [State.cFlag, dataProcessing_cpsr]
    split
    · exact flagsOf_getLsbD _ _ 29 (by decide)
    · rfl
  low _ hk := dataProcessing_cpsr_low op sBit rn rd b s hk

/-- What the data-processing executor leaves, whatever operand 2 comes from. -/
theorem dataProcessing_dpLeaves (op : DpOp) (sBit : Bool) (rn rd : RegNum) (b : Word) (s : State) :
    DpLeaves s (dataProcessing op sBit rn rd b s) op.isCompare sBit rd
      (alu op (s.readReg rn.index) b s.cFlag).result (alu op (s.readReg rn.index) b s.cFlag).carry where
  regs := dataProcessing_regsAre op sBit rn rd b s
  flags := dataProcessing_flagsAre op sBit rn rd b s
  memory a := by rw [State.byteAt, dataProcessing_mem, State.byteAt]
  result := rfl
  elsewhere := (kept_dataProcessing op sBit rn rd b s).sameElsewhere

/-! ### The rotated immediate -/

theorem isWord001_iff (w : Word) : isWord001 w = true ↔ w.extractLsb' 25 3 = 0b001#3 := by
  rw [extract_25_3, isWord001]
  cases w.getLsbD 27 <;> cases w.getLsbD 26 <;> cases w.getLsbD 25 <;> decide

/-- Twice a four-bit rotation is below 32, so R139's modulus never applies. -/
theorem operand2Imm_eq_ofNat (rot : BitVec 4) (imm8 : BitVec 8) :
    operand2Imm rot imm8 =
      BitVec.ofNat 32
        (imm8.toNat / 2 ^ (2 * rot.toNat) + imm8.toNat % 2 ^ (2 * rot.toNat) * 2 ^ (32 - 2 * rot.toNat)) := by
  have hrot : 2 * rot.toNat < 32 := by have := rot.isLt; omega
  have himm : (imm8.setWidth 32).toNat = imm8.toNat := BitVec.toNat_setWidth_of_le (by decide)
  rw [operand2Imm, Nat.mod_eq_of_lt hrot, ror32_eq_ofNat _ hrot, himm]

/-- Settles O59: the word runs as its DP_IMM fields, in the state the step starts from. -/
theorem dataProcImmConfigurationRunsTheImmediateForm :
    Obligations.DataProcImmConfigurationRunsTheImmediateForm := by
  intro s w rest h hd hw hc op r imm b res
  have hb : operand2Imm (w.extractLsb' 8 4) (w.extractLsb' 0 8) = b := operand2Imm_eq_ofNat _ _
  have hrun : runWord w (begun s rest) =
      .next (dataProcessing op (w.getLsbD 20) (regField w 16) (regField w 12) b (begun s rest)) := by
    rw [runWord_of_dataProcImm (s := begun s rest) hd ((isWord001_iff w).2 hw), ← hb]
    exact whenPasses_of_pass _ ((begun_condPass ..).trans hc)
  exact ⟨_, step_of_presents_of_runWord h hrun, dataProcessing_dpLeaves ..⟩

end Sys2Proof.Machine
end

section
/-! The data-processing family (42_data_processing.md): the rule of an operation from its ALU equation, the
ALU's arithmetic on integers, and the carries against the true carry and borrow. -/

namespace Sys2Proof.Machine

open Sys2Proof.Claims

/-! ### The rule of an operation -/

/-- The words of the family, by their operation field, are the operation's two formats (R82, R83, R89). -/
theorem dpWords_of_op (op : DpOp) : DpWords op.toBits (Instr.ofDpRsi op) (Instr.ofDpRsr op) := by
  intro w hw hop
  rw [decode, Form.decode, (family_eq_dataProc_iff w).2 hw]
  simp only [decodeDataProcessing, hop, DpOp.ofBits_toBits]
  cases w.getLsbD 4 <;> rfl

theorem exec_ofForm_of_pass {f : Form} {s : State} (h : s.condPass (formCond f) = true) :
    exec (Instr.ofForm f) s = .next (effect f s) := by
  rw [exec_of_pass, toForm_ofForm]
  rwa [cond_eq_formCond, toForm_ofForm]

/-- The low byte of `Rs` is its value modulo 256 (41_barrel_shifter.md R130). -/
theorem operand2Rsr_eq_shift_mod (s : State) (rs : RegNum) (t : ShiftType) (rm : RegNum) :
    s.operand2Rsr rs t rm =
      shift s.params.shiftGe32 t (s.readReg rm.index) ((s.readReg rs.index).toNat % 256) := by
  rw [State.operand2Rsr, BitVec.toNat_and]
  exact congrArg _ (Nat.and_two_pow_sub_one_eq_mod _ 8)

/-- Both operand forms of an operation leave what its ALU equation says, so that equation is all a rule
needs. -/
theorem dpRule_of_alu (op : DpOp) {result : Word → Word → Bool → Word} {carry : Word → Word → Bool → Option Bool}
    (halu : ∀ a b cin, alu op a b cin = ⟨result a b cin, carry a b cin⟩) :
    DpRule op.toBits (Instr.ofDpRsi op) (Instr.ofDpRsr op) op.isCompare result carry := by
  have hleaves (sBit : Bool) (rn rd : RegNum) (b : Word) (s : State) :
      DpLeaves s (dataProcessing op sBit rn rd b s) op.isCompare sBit rd
        (result (s.readReg rn.index) b s.cFlag) (carry (s.readReg rn.index) b s.cFlag) := by
    have h := dataProcessing_dpLeaves op sBit rn rd b s
    rwa [halu] at h
  refine ⟨dpWords_of_op op, fun c sBit rn rd n sh rm s hc => ?rsi, fun c sBit rn rd rs g sh rm s hc => ?rsr⟩
  case rsi => exact ⟨_, exec_ofForm_of_pass (f := .dpRsi op c sBit rn rd n sh rm) hc, hleaves ..⟩
  case rsr =>
    dsimp only
    rw [← operand2Rsr_eq_shift_mod]
    exact ⟨_, exec_ofForm_of_pass (f := .dpRsr op c sBit rn rd rs g sh rm) hc, hleaves ..⟩

/-! ### Integers modulo 2^32 -/

theorem wrap_add (x y : Int) : wrap (x + y) = wrap x + wrap y := BitVec.ofInt_add x y

theorem wrap_sub (x y : Int) : wrap (x - y) = wrap x - wrap y :=
  eq_sub_of_add_eq (by rw [← wrap_add, Int.sub_add_cancel])

@[simp] theorem wrap_toNat (a : Word) : wrap a.toNat = a := by
  rw [wrap, BitVec.ofInt_natCast, BitVec.ofNat_toNat, BitVec.setWidth_eq]

@[simp] theorem wrap_cinNat (cin : Bool) : wrap (cinNat cin) = carryIn cin := by cases cin <;> rfl

@[simp] theorem wrap_one_sub_cinNat (cin : Bool) : wrap (1 - cinNat cin) = borrowIn cin := by cases cin <;> rfl

theorem add_eq_wrap (a b : Word) : a + b = wrap (a.toNat + b.toNat) := by
  rw [wrap_add, wrap_toNat, wrap_toNat]

theorem sub_eq_wrap (a b : Word) : a - b = wrap (a.toNat - b.toNat) := by
  rw [wrap_sub, wrap_toNat, wrap_toNat]

theorem addWithCarry_eq (a b : Word) (cin : Bool) : addWithCarry a b cin = a + b + carryIn cin := by
  rw [addWithCarry, wrap_add, wrap_cinNat, ← add_eq_wrap]

theorem subWithCarry_eq (a b : Word) (cin : Bool) : subWithCarry a b cin = a - b - borrowIn cin := by
  rw [subWithCarry, wrap_sub, wrap_one_sub_cinNat, ← sub_eq_wrap]

/-! ### The carries -/

/-- Adding `d` wraps below the first operand exactly when it carries, but adding 2^32 changes nothing. -/
theorem add_ofNat_lt_iff (a : Word) {d : Nat} (hd : d ≤ 2 ^ 32) :
    a + BitVec.ofNat 32 d < a ↔ 2 ^ 32 ≤ a.toNat + d ∧ d ≠ 2 ^ 32 := by
  have ha := a.isLt
  rw [BitVec.lt_def, BitVec.toNat_add, BitVec.toNat_ofNat, Nat.add_mod_mod]
  omega

/-- Subtracting `d` gives a smaller value exactly when it borrows nothing and is not the identity. -/
theorem sub_ofNat_lt_iff (a : Word) {d : Nat} (hd : d ≤ 2 ^ 32) :
    a - BitVec.ofNat 32 d < a ↔ 1 ≤ d ∧ d ≤ a.toNat := by
  have ha := a.isLt
  rw [BitVec.lt_def, BitVec.toNat_sub, BitVec.toNat_ofNat]
  omega

theorem ofNat_toNat_add (b : Word) (n : Nat) : BitVec.ofNat 32 (b.toNat + n) = b + BitVec.ofNat 32 n := by
  rw [BitVec.ofNat_add, BitVec.ofNat_toNat, BitVec.setWidth_eq]

theorem cinNat_le_one (cin : Bool) : cinNat cin ≤ 1 := by cases cin <;> decide

theorem carryIn_eq_ofNat (cin : Bool) : carryIn cin = BitVec.ofNat 32 (cinNat cin) := by cases cin <;> rfl

theorem borrowIn_eq_ofNat (cin : Bool) : borrowIn cin = BitVec.ofNat 32 (1 - cinNat cin) := by cases cin <;> rfl

/-- What ADC adds to operand 1 reaches 2^32, where its carry departs from the true one, in one case only (R173). -/
theorem toNat_add_cinNat_eq_iff (b : Word) (cin : Bool) :
    b.toNat + cinNat cin = 2 ^ 32 ↔ b = 0xFFFFFFFF#32 ∧ cin = true := by
  rw [BitVec.toNat_eq]
  cases cin with
  | false => simpa [cinNat] using b.isLt.ne
  | true => simp [cinNat]

theorem add_carryIn_lt_iff (a b : Word) (cin : Bool) : a + b + carryIn cin < a ↔
    2 ^ 32 ≤ a.toNat + b.toNat + cinNat cin ∧ ¬(b = 0xFFFFFFFF#32 ∧ cin = true) := by
  have hd : b.toNat + cinNat cin ≤ 2 ^ 32 := by
    have hb := b.isLt
    have hc := cinNat_le_one cin
    omega
  rw [BitVec.add_assoc, carryIn_eq_ofNat, ← ofNat_toNat_add, add_ofNat_lt_iff a hd, ← Nat.add_assoc, Ne,
    toNat_add_cinNat_eq_iff]

/-- The true carry of ADD and CMN. -/
theorem add_lt_left_iff (a b : Word) : a + b < a ↔ 2 ^ 32 ≤ a.toNat + b.toNat := by
  simpa [carryIn, cinNat] using add_carryIn_lt_iff a b false

theorem sub_borrowIn_lt_iff (a b : Word) (cin : Bool) : a - b - borrowIn cin < a ↔
    1 ≤ b.toNat + (1 - cinNat cin) ∧ b.toNat + (1 - cinNat cin) ≤ a.toNat := by
  have hd : b.toNat + (1 - cinNat cin) ≤ 2 ^ 32 := by
    have hb := b.isLt
    omega
  rw [BitVec.sub_sub, borrowIn_eq_ofNat, ← ofNat_toNat_add, sub_ofNat_lt_iff a hd]

theorem arithBelow_carry {r bound : Word} {p : Prop} [Decidable p] (h : r < bound ↔ p) :
    (arithBelow r bound).carry = some (decide p) :=
  congrArg some (decide_eq_decide.2 h)

/-- Settles O13: each carry is a comparison of the result, read off from the sum or difference that wraps. -/
theorem carryFormulasAgainstTrueCarryAndBorrow : Obligations.CarryFormulasAgainstTrueCarryAndBorrow := by
  intro a b cin
  have hadd := arithBelow_carry (add_lt_left_iff a b)
  exact ⟨hadd, hadd, rfl, rfl, rfl, arithBelow_carry (add_carryIn_lt_iff a b cin),
    arithBelow_carry (sub_borrowIn_lt_iff a b cin), arithBelow_carry (sub_borrowIn_lt_iff b a cin)⟩

/-! ### The logical operations -/

/-- Settles O14: R154 is the ALU's own equation. -/
theorem andWritesTheConjunction : Obligations.AndWritesTheConjunction := dpRule_of_alu .and fun _ _ _ => rfl

/-- Settles O15: R155 is the ALU's own equation. -/
theorem eorWritesTheExclusiveOr : Obligations.EorWritesTheExclusiveOr := dpRule_of_alu .eor fun _ _ _ => rfl

/-- Settles O22: R162 is the ALU's own equation. -/
theorem tstSetsFlagsOfTheConjunction : Obligations.TstSetsFlagsOfTheConjunction :=
  dpRule_of_alu .tst fun _ _ _ => rfl

/-- Settles O23: R163 is the ALU's own equation. -/
theorem teqSetsFlagsOfTheExclusiveOr : Obligations.TeqSetsFlagsOfTheExclusiveOr :=
  dpRule_of_alu .teq fun _ _ _ => rfl

/-- Settles O26: R166 is the ALU's own equation. -/
theorem orrWritesTheDisjunction : Obligations.OrrWritesTheDisjunction := dpRule_of_alu .orr fun _ _ _ => rfl

/-- Settles O27: R167 is the ALU's own equation. -/
theorem movWritesOperandTwo : Obligations.MovWritesOperandTwo := dpRule_of_alu .mov fun _ _ _ => rfl

/-- Settles O28: R168 is the ALU's own equation. -/
theorem bicWritesTheBitClear : Obligations.BicWritesTheBitClear := dpRule_of_alu .bic fun _ _ _ => rfl

/-- Settles O29: R169 is the ALU's own equation. -/
theorem mvnWritesTheComplement : Obligations.MvnWritesTheComplement := dpRule_of_alu .mvn fun _ _ _ => rfl

/-! ### The arithmetic operations -/

/-- A sum that carries where it is below its first operand, on integers. -/
theorem arithBelow_add (a b : Word) :
    arithBelow (a + b) a = ⟨wrap (a.toNat + b.toNat), some (decide (2 ^ 32 ≤ a.toNat + b.toNat))⟩ := by
  rw [← add_eq_wrap, ← arithBelow_carry (add_lt_left_iff a b)]
  rfl

theorem arithBelow_addWithCarry (a b : Word) (cin : Bool) : arithBelow (a + b + carryIn cin) a =
    ⟨addWithCarry a b cin, some (decide ((addWithCarry a b cin).toNat < a.toNat))⟩ := by
  rw [addWithCarry_eq]
  rfl

theorem arithBelow_subWithCarry (a b : Word) (cin : Bool) : arithBelow (a - b - borrowIn cin) a =
    ⟨subWithCarry a b cin, some (decide ((subWithCarry a b cin).toNat < a.toNat))⟩ := by
  rw [subWithCarry_eq]
  rfl

theorem sub_noBorrow_eq (a b : Word) : (⟨a - b, some (decide (b ≤ a))⟩ : AluResult) =
    ⟨wrap (a.toNat - b.toNat), some (decide (b.toNat ≤ a.toNat))⟩ := by
  rw [← sub_eq_wrap]
  rfl

/-- Settles O16: R156, a difference whose carry is no-borrow. -/
theorem subWritesTheDifference : Obligations.SubWritesTheDifference :=
  dpRule_of_alu .sub fun a b _ => sub_noBorrow_eq a b

/-- Settles O17: R157, a difference whose carry is no-borrow. -/
theorem rsbWritesTheReversedDifference : Obligations.RsbWritesTheReversedDifference :=
  dpRule_of_alu .rsb fun a b _ => sub_noBorrow_eq b a

/-- Settles O18: R158, a sum that is below operand 1 exactly when it carries. -/
theorem addWritesTheSum : Obligations.AddWritesTheSum := dpRule_of_alu .add fun a b _ => arithBelow_add a b

/-- Settles O19: R159, the source's carry formula on the sum with `Cin`. -/
theorem adcWritesTheSumWithCarry : Obligations.AdcWritesTheSumWithCarry := dpRule_of_alu .adc arithBelow_addWithCarry

/-- Settles O20: R160, the source's carry formula on the difference with `Cin`. -/
theorem sbcWritesTheDifferenceWithCarry : Obligations.SbcWritesTheDifferenceWithCarry :=
  dpRule_of_alu .sbc arithBelow_subWithCarry

/-- Settles O21: R161 is SBC's equation with the operands exchanged. -/
theorem rscWritesTheReversedDifferenceWithCarry : Obligations.RscWritesTheReversedDifferenceWithCarry :=
  dpRule_of_alu .rsc fun a b => arithBelow_subWithCarry b a

/-- Settles O24: R164, a difference whose carry is no-borrow. -/
theorem cmpSetsFlagsOfTheDifference : Obligations.CmpSetsFlagsOfTheDifference :=
  dpRule_of_alu .cmp fun a b _ => sub_noBorrow_eq a b

/-- Settles O25: R165, a sum that is below operand 1 exactly when it carries. -/
theorem cmnSetsFlagsOfTheSum : Obligations.CmnSetsFlagsOfTheSum := dpRule_of_alu .cmn fun a b _ => arithBelow_add a b

end Sys2Proof.Machine
end

section
/-! The branch family (43_branch.md): the offset and target on integers, what the branch executor leaves,
and the rules of B and BL. -/

namespace Sys2Proof.Claims

open Sys2Proof.Machine

/-! ### One more register written -/

/-- A register listed last, and not before, is one more register named. -/
theorem only_concat {pairs : List (RegNum × Word)} {r : RegNum} (hr : only pairs r = none) (v : Word) :
    only (pairs ++ [(r, v)]) = Function.update (only pairs) r (some v) := by
  funext q
  have happend : only (pairs ++ [(r, v)]) q = (only pairs q).or (only [(r, v)] q) := List.lookup_append
  rw [happend, only_singleton]
  by_cases h : r = q
  · subst h
    simp [hr]
  · simp [h, Function.update_of_ne (Ne.symm h)]

theorem getD_update (written : RegNum → Option Word) (r q : RegNum) (v old : Word) :
    (Function.update written r (some v) q).getD old = if r = q then v else (written q).getD old := by
  by_cases h : r = q
  · simp [h]
  · simp [h, Function.update_of_ne (Ne.symm h)]

theorem RegsAre.writeReg {s t : State} {written : RegNum → Option Word} (h : RegsAre s t written) (r : RegNum)
    (v : Word) : RegsAre s (t.writeReg r.index v) (Function.update written r (some v)) where
  register q := by
    rw [getD_update, State.readReg_writeReg]
    exact if_congr (RegNum_index_inj r q) rfl (h.register q)
  pcShadow := by
    rw [getD_update]
    exact if_congr (RegNum_index_inj r 15) rfl h.pcShadow
  spShadow := by
    rw [getD_update]
    exact if_congr (RegNum_index_inj r 13) rfl h.spShadow
  lrShadow := by
    rw [getD_update]
    exact if_congr (RegNum_index_inj r 14) rfl h.lrShadow

end Sys2Proof.Claims

namespace Sys2Proof.Machine

open Sys2Proof.Claims

/-! ### The offset and the target on integers -/

theorem branchOffset_eq_wrap (k : BitVec 24) : branchOffset k = wrap (4 * k.toInt) := by
  rw [branchOffset, BitVec.signExtend, BitVec.toInt_append_zero]
  rfl

theorem branchTarget_eq (s : State) (k : BitVec 24) : branchTarget s k = s.pc + 8#32 + branchOffset k := by
  rw [branchTarget, wrap_add, wrap_add, wrap_toNat, branchOffset_eq_wrap]
  rfl

/-- The return address of BL, on integers. -/
theorem pc_add_four_eq_wrap (s : State) : s.pc + 4#32 = wrap ((s.readReg 15).toNat + 4) := by
  rw [wrap_add, wrap_toNat]
  rfl

/-! ### What a branch leaves -/

/-- The registers written: LR by a linking branch, and the PC, both from the old PC. -/
theorem branch_regsAre (link : Bool) (k : BitVec 24) (s : State) :
    RegsAre s (branch link k s) (only
      ((if link then [(14, wrap ((s.readReg 15).toNat + 4))] else []) ++ [(15, branchTarget s k)])) := by
  rw [branch_eq, ← branchTarget_eq, pc_add_four_eq_wrap]
  apply RegsAre.succeed
  cases link with
  | false => exact regsAre_writeReg s 15 _
  | true =>
    simp only [if_true]
    rw [only_concat (only_singleton 14 15 _)]
    exact (regsAre_writeReg s 14 _).writeReg 15 _

theorem branch_branchLeaves (link : Bool) (k : BitVec 24) (s : State) :
    BranchLeaves s (branch link k s)
      ((if link then [(14, wrap ((s.readReg 15).toNat + 4))] else []) ++ [(15, branchTarget s k)]) where
  regs := branch_regsAre link k s
  cpsr := branch_cpsr link k s
  memory a := by rw [State.byteAt, branch_mem, State.byteAt]
  result := rfl
  elsewhere := (kept_branch link k s).sameElsewhere

/-! ### The rules of B and BL -/

/-- The words of the family with a given `L` are that branch, whatever bit 25 is (R85, R92). -/
theorem decode_of_branch {w : Word} (h : w.extractLsb' 26 2 = 0b10#2) :
    decode w = Instr.ofForm (.br (w.getLsbD 24) (condField w) (w.getLsbD 25) (w.extractLsb' 0 24)) := by
  rw [decode, Form.decode, (family_eq_branch_iff w).2 h]

/-- A branch is skipped whatever the configuration says of illegal words (R102). -/
theorem exec_branch_of_skip (link g : Bool) (k : BitVec 24) {c : Cond} {s : State} (h : s.condPass c = false) :
    exec (Instr.ofForm (.br link c g k)) s = .next s.succeed := by
  rw [exec_eq_runForm, toForm_ofForm]
  exact whenPasses_of_skip _ h

/-- B and BL have one rule: they differ in whether LR is written. -/
theorem branchRule_of_link (link : Bool) :
    BranchRule link (fun c g k => Instr.ofForm (.br link c g k)) (fun s k =>
      (if link then [(14, wrap ((s.readReg 15).toNat + 4))] else []) ++ [(15, branchTarget s k)]) := by
  refine ⟨fun w hw hl => ?words, fun c g k s hc => ?passes, fun c g k s hc => ?skipped⟩
  case words =>
    rw [decode_of_branch hw, hl]
    rfl
  case passes => exact ⟨_, exec_ofForm_of_pass hc, branch_branchLeaves link k s⟩
  case skipped => exact exec_branch_of_skip link g k hc

/-- Settles O34: R194 is the branch rule without a link. -/
theorem branchMovesThePc : Obligations.BranchMovesThePc := branchRule_of_link false

/-- Settles O35: R195 is the branch rule with a link. -/
theorem branchWithLinkSetsLrAndMovesThePc : Obligations.BranchWithLinkSetsLrAndMovesThePc := branchRule_of_link true

end Sys2Proof.Machine
end

section
/-! The load/store family (44_load_store.md): the words with `iw[27:25] = 001`, what loads and stores leave,
and the rules of LDR, LDRB, STR and STRB. -/

namespace Sys2Proof.Claims

open Sys2Proof.Machine

/-! ### The base writeback -/

/-- The pair listed first is the write that counts. -/
theorem only_cons (pairs : List (RegNum × Word)) (r : RegNum) (v : Word) :
    only ((r, v) :: pairs) = Function.update (only pairs) r (some v) := by
  funext q
  by_cases h : q = r
  · subst h
    simp [only]
  · have hq : (q == r) = false := beq_false_of_ne h
    simp [only, List.lookup, hq, Function.update_of_ne h]

/-- The base writeback counts over what was written before it, so with `Rd = Rn` the index stays
(44_load_store.md R201). -/
theorem RegsAre.writeBack {s t : State} {pairs : List (RegNum × Word)} (h : RegsAre s t (only pairs)) (pre : Bool)
    (rn : RegNum) (index : Word) :
    RegsAre s (t.writeBack pre rn index) (only (writtenBack pre rn index ++ pairs)) := by
  cases pre with
  | true => exact h
  | false =>
    have hcons : only (writtenBack false rn index ++ pairs) = Function.update (only pairs) rn (some index) :=
      only_cons pairs rn index
    rw [hcons]
    exact h.writeReg rn index

theorem regsAre_memWrite (s : State) (addr : Word) (w : Width) (v : Word) :
    RegsAre s (s.memWrite addr w v) (only []) :=
  ⟨fun _ => rfl, rfl, rfl, rfl⟩

end Sys2Proof.Claims

namespace Sys2Proof.Machine

open Sys2Proof.Claims

/-! ### The words of the family -/

/-- The bits that tell the formats apart, read off their field. -/
theorem extract_25_3_eq_iff (w : Word) (b27 b26 b25 : Bool) :
    w.extractLsb' 25 3 = BitVec.ofBool b27 ++ BitVec.ofBool b26 ++ BitVec.ofBool b25 ↔
      w.getLsbD 27 = b27 ∧ w.getLsbD 26 = b26 ∧ w.getLsbD 25 = b25 := by
  rw [extract_25_3]
  generalize w.getLsbD 27 = a, w.getLsbD 26 = b, w.getLsbD 25 = c
  decide +revert

/-- Settles O7: the two words agree outside bit 26, which tells the two patterns of LS_REG apart and is
read by nothing else. -/
theorem aliasWordsExecuteAsRegisterOffsetWords : Obligations.AliasWordsExecuteAsRegisterOffsetWords := by
  intro w s hw
  obtain ⟨h27, h26, h25⟩ := (extract_25_3_eq_iff w false false true).1 hw
  have h : AgreeOutside 0x04000000#32 w (w ||| 0x04000000#32) := by
    rw [AgreeOutside, BitVec.and_or_distrib_right]
    exact BitVec.or_zero.symm
  have hset : (w ||| 0x04000000#32).getLsbD 26 = true := by
    rw [BitVec.getLsbD_or, h26]
    rfl
  generalize w ||| 0x04000000#32 = v at h hset ⊢
  have h27' : v.getLsbD 27 = false := (getLsbD_eq_of_agreeOutside h (by decide)).symm.trans h27
  have h25' : v.getLsbD 25 = true := (getLsbD_eq_of_agreeOutside h (by decide)).symm.trans h25
  rw [exec_decode, exec_decode]
  simp (disch := decide) only [Form.decode, family, decodeLoadStore, condField, regField, h27, h26, h25, h27', hset,
    h25', if_true, runForm, extract_eq_of_agreeOutside h, getLsbD_eq_of_agreeOutside h]

/-- Settles O4: each word is a closed term that the decoder takes apart. -/
theorem specWordsDecodeAsTheSpecReadsThem : Obligations.SpecWordsDecodeAsTheSpecReadsThem := by
  unfold Obligations.SpecWordsDecodeAsTheSpecReadsThem
  decide

theorem decode_of_loadStore {w : Word} (h : family w = .loadStore) :
    decode w = Instr.ofForm (decodeLoadStore w) := by
  rw [decode, Form.decode, h]

/-- The words of the family, by `L` and `B`, are the operation's six forms (R86, R87, R91). -/
theorem lsWords_of_op (op : LsOp) :
    LsWords op.lBit op.bBit (Instr.ofLsImm op true) (Instr.ofLsImm op false) (Instr.ofLsReg op false true)
      (Instr.ofLsReg op false false) (Instr.ofLsReg op true true) (Instr.ofLsReg op true false) := by
  intro w hl hb imm reg
  have hop : LsOp.ofBits (w.getLsbD 20) (w.getLsbD 22) = op := by rw [hl, hb, LsOp.ofBits_lBit_bBit]
  refine ⟨fun h => ?imm, fun h => ?reg, fun h => ?aliased⟩
  case' imm => obtain ⟨h27, h26, h25⟩ := (extract_25_3_eq_iff w false true false).1 h
  case' reg => obtain ⟨h27, h26, h25⟩ := (extract_25_3_eq_iff w false true true).1 h
  case' aliased => obtain ⟨h27, h26, h25⟩ := (extract_25_3_eq_iff w false false true).1 h
  all_goals
    have hf : family w = .loadStore := by rw [family, h27, h26, h25]
    simp only [decode_of_loadStore hf, decodeLoadStore, hop, h26, h25]
    cases w.getLsbD 24 <;> rfl

/-! ### The index and the accessed address -/

/-- The index of an access (44_load_store.md R203). -/
def State.lsIndex (s : State) (up : Bool) (rn : RegNum) (offset : Word) : Word :=
  indexValue up (s.readReg rn.index) offset

/-- The accessed address (44_load_store.md R200). -/
def State.lsAddr (s : State) (pre up : Bool) (rn : RegNum) (offset : Word) : Word :=
  accessAddr pre (s.readReg rn.index) (s.lsIndex up rn offset)

theorem indexValue_eq_wrap (up : Bool) (base offset : Word) : indexValue up base offset =
    if up then wrap (base.toNat + offset.toNat) else wrap (base.toNat - offset.toNat) := by
  cases up with
  | true => exact add_eq_wrap base offset
  | false => exact sub_eq_wrap base offset

theorem load_of_inRange {w : Width} {pre up : Bool} {rn : RegNum} {offset : Word} {s : State}
    (h : s.inRange (s.lsAddr pre up rn offset) w = true) (rd : RegNum) :
    load w pre up rn rd offset s =
      ((s.writeReg rd.index (s.memRead (s.lsAddr pre up rn offset) w)).writeBack pre rn
        (s.lsIndex up rn offset)).succeed :=
  if_pos h

theorem load_of_not_inRange {w : Width} {pre up : Bool} {rn : RegNum} {offset : Word} {s : State}
    (h : ¬ s.inRange (s.lsAddr pre up rn offset) w = true) (rd : RegNum) :
    load w pre up rn rd offset s = s.fail .accessOutOfRange :=
  if_neg h

theorem store_of_inRange {w : Width} {pre up : Bool} {rn : RegNum} {offset : Word} {s : State}
    (h : s.inRange (s.lsAddr pre up rn offset) w = true) (rd : RegNum) :
    store w pre up rn rd offset s =
      ((s.memWrite (s.lsAddr pre up rn offset) w (s.readReg rd.index)).writeBack pre rn
        (s.lsIndex up rn offset)).succeed :=
  if_pos h

theorem store_of_not_inRange {w : Width} {pre up : Bool} {rn : RegNum} {offset : Word} {s : State}
    (h : ¬ s.inRange (s.lsAddr pre up rn offset) w = true) (rd : RegNum) :
    store w pre up rn rd offset s = s.fail .accessOutOfRange :=
  if_neg h

/-! ### What loads and stores leave -/

theorem toNat_append_eq_add {m n : Nat} (x : BitVec m) (y : BitVec n) :
    (x ++ y).toNat = 2 ^ n * x.toNat + y.toNat := by
  rw [BitVec.toNat_append, ← Nat.shiftLeft_add_eq_or_of_lt y.isLt, Nat.shiftLeft_eq, Nat.mul_comm]

/-- A read is little-endian, a byte zero-extended (20_memory.md R53, R56). -/
theorem memRead_eq_loadedValue (s : State) (addr : Word) (w : Width) :
    s.memRead addr w = BitVec.ofNat 32 (loadedValue s w addr.toNat) := by
  cases w with
  | byte => exact (BitVec.ofNat_toNat 32 _).symm
  | word =>
    apply BitVec.eq_of_toNat_eq
    simp only [State.memRead, loadedValue, toNat_append_eq_add, BitVec.toNat_ofNat]
    omega

theorem load_loadLeaves {w : Width} {pre up : Bool} {rn : RegNum} {offset : Word} {s : State}
    (h : s.inRange (s.lsAddr pre up rn offset) w = true) (rd : RegNum) :
    LoadLeaves s (load w pre up rn rd offset s) w pre rn rd (s.lsAddr pre up rn offset) (s.lsIndex up rn offset) where
  regs := by
    rw [load_of_inRange h, ← memRead_eq_loadedValue]
    exact ((regsAre_writeReg s rd _).writeBack pre rn _).succeed
  cpsr := load_cpsr w pre up rn rd offset s
  memory a := by rw [State.byteAt, load_mem, State.byteAt]
  result := by rw [load_of_inRange h, State.succeed_result]
  elsewhere := (kept_load w pre up rn rd offset s).sameElsewhere

/-- Byte `k` of a stored value is its bits `8k+7` to `8k` (20_memory.md R53). -/
theorem byteAt_memWrite_stored (s : State) (hm : Memory.wf s.mem = true) (addr : Word) (w : Width) (v : Word) {k : Nat}
    (hk : k < w.bytes) : (s.memWrite addr w v).byteAt (addr.toNat + k) = v.extractLsb' (8 * k) 8 := by
  cases w with
  | word => exact s.byteAt_memWrite_word hm addr v hk
  | byte =>
    obtain rfl : k = 0 := Nat.lt_one_iff.1 hk
    rw [State.byteAt_memWrite s hm, if_pos ⟨by omega, by omega⟩, Nat.add_sub_cancel_left]
    rfl

theorem byteAt_store {w : Width} {pre up : Bool} {rn : RegNum} {offset : Word} {s : State}
    (h : s.inRange (s.lsAddr pre up rn offset) w = true) (rd : RegNum) (a : Nat) :
    (store w pre up rn rd offset s).byteAt a =
      (s.memWrite (s.lsAddr pre up rn offset) w (s.readReg rd.index)).byteAt a := by
  rw [store_of_inRange h, State.succeed_byteAt, State.byteAt, State.mem_writeBack, State.byteAt]

theorem store_storeLeaves {w : Width} {pre up : Bool} {rn : RegNum} {offset : Word} {s : State}
    (hm : Memory.wf s.mem = true) (h : s.inRange (s.lsAddr pre up rn offset) w = true) (rd : RegNum) :
    StoreLeaves s (store w pre up rn rd offset s) w pre rn rd (s.lsAddr pre up rn offset)
      (s.lsIndex up rn offset) where
  regs := by
    rw [store_of_inRange h, ← List.append_nil (writtenBack ..)]
    exact ((regsAre_memWrite ..).writeBack pre rn _).succeed
  cpsr := store_cpsr w pre up rn rd offset s
  stored k hk := by rw [byteAt_store h, byteAt_memWrite_stored s hm _ w _ hk]
  memory a ha := by rw [byteAt_store h, State.byteAt_memWrite s hm, if_neg (by omega)]
  result := by rw [store_of_inRange h, State.succeed_result]
  elsewhere := (kept_store w pre up rn rd offset s).sameElsewhere

/-! ### The rules of the operations -/

/-- What the six forms of an operation share, on a canonical memory: an access of width `w` in range
leaves what `leaves` says, any other fails and changes nothing (44_load_store.md R208, R215). -/
structure AccessMeets (op : LsOp) (w : Width)
    (leaves : State → State → Width → Bool → RegNum → RegNum → Word → Word → Prop) : Prop where
  completes : ∀ {pre up rn offset s}, Memory.wf s.mem = true → s.inRange (s.lsAddr pre up rn offset) w = true →
    ∀ rd, leaves s (access op pre up rn rd offset s) w pre rn rd (s.lsAddr pre up rn offset) (s.lsIndex up rn offset)
  fails : ∀ {pre up rn offset s}, ¬ s.inRange (s.lsAddr pre up rn offset) w = true →
    ∀ rd, access op pre up rn rd offset s = s.fail .accessOutOfRange

section

variable {op : LsOp} {w : Width} {leaves : State → State → Width → Bool → RegNum → RegNum → Word → Word → Prop}

theorem AccessMeets.accessRule (h : AccessMeets op w leaves) {pre up : Bool} {rn rd : RegNum} {offset : Word}
    {i : Instr} {s : State} (hm : Memory.wf s.mem = true)
    (hexec : exec i s = .next (access op pre up rn rd offset s)) :
    AccessRule w pre up rn offset i s (fun t => leaves s t w pre rn rd) := by
  refine ⟨indexValue_eq_wrap _ _ _, rfl, fun hin => ?completes, fun hout => ?fails⟩
  case completes => exact ⟨_, hexec, h.completes hm ((s.inRange_iff _ w).2 hin) rd⟩
  case fails =>
    rw [hexec, h.fails fun hin => Nat.not_le_of_lt hout ((s.inRange_iff _ w).1 hin).2]
    rfl

theorem AccessMeets.immRule (h : AccessMeets op w leaves) (pre : Bool) :
    ImmRule (Instr.ofLsImm op pre) w pre leaves := fun c u g rn rd n _ hc hm =>
  h.accessRule hm (exec_ofForm_of_pass (f := .lsImm op pre c u g rn rd n) hc)

theorem AccessMeets.regRule (h : AccessMeets op w leaves) (aliased pre : Bool) :
    RegRule (Instr.ofLsReg op aliased pre) w pre leaves := fun c u g rn rd ignored rm _ hc hm =>
  h.accessRule hm (exec_ofForm_of_pass (f := .lsReg op aliased pre c u g rn rd ignored rm) hc)

/-- All six forms of an operation run one executor, so what it leaves is all a rule needs. -/
theorem AccessMeets.lsRule (h : AccessMeets op w leaves) :
    LsRule op.lBit op.bBit w (Instr.ofLsImm op true) (Instr.ofLsImm op false) (Instr.ofLsReg op false true)
      (Instr.ofLsReg op false false) (Instr.ofLsReg op true true) (Instr.ofLsReg op true false) leaves :=
  ⟨lsWords_of_op op, h.immRule true, h.immRule false, h.regRule false true, h.regRule false false,
    h.regRule true true, h.regRule true false⟩

end

/-- Settles O30: LDR runs the word load (R209). -/
theorem ldrLoadsTheWord : Obligations.LdrLoadsTheWord :=
  AccessMeets.lsRule (op := .ldr) ⟨fun _ => load_loadLeaves, load_of_not_inRange⟩

/-- Settles O31: LDRB runs the byte load (R210). -/
theorem ldrbLoadsTheByte : Obligations.LdrbLoadsTheByte :=
  AccessMeets.lsRule (op := .ldrb) ⟨fun _ => load_loadLeaves, load_of_not_inRange⟩

/-- Settles O32: STR runs the word store (R211). -/
theorem strStoresTheWord : Obligations.StrStoresTheWord :=
  AccessMeets.lsRule (op := .str) ⟨store_storeLeaves, store_of_not_inRange⟩

/-- Settles O33: STRB runs the byte store (R212). -/
theorem strbStoresTheByte : Obligations.StrbStoresTheByte :=
  AccessMeets.lsRule (op := .strb) ⟨store_storeLeaves, store_of_not_inRange⟩

end Sys2Proof.Machine
end

section
/-! The host interface family (50_host_interface.md): what each transaction answers and leaves unchanged,
where a step stops, and that a batch is the spec's loop over the instruction step. -/

namespace Sys2Proof.Machine

open Sys2Proof.Claims

/-! ### Register, counter and size transactions -/

@[simp] theorem State.taking_readReg (s : State) (rest : List Transaction) (i : Fin 17) :
    (s.taking rest).readReg i = s.readReg i := rfl

theorem whenInitialized_of_initialized {s : State} (h : s.initialized = true) (o : Outcome) :
    whenInitialized s o = o := by
  simp only [whenInitialized, h, if_true]

theorem setRegister_of_initialized {s : State} (h : s.initialized = true) (reg : Fin 17) (value : Word) :
    setRegister reg value s = .next ((s.writeReg reg value).respond .done) := by
  rw [setRegister, whenInitialized_of_initialized h, dif_pos reg.isLt]

/-- Above index 16 a register write has no effect (50_host_interface.md R236). -/
theorem setRegister_of_ge {s : State} (h : s.initialized = true) {reg : Nat} (hreg : 17 ≤ reg) (value : Word) :
    setRegister reg value s = .next (s.respond .done) := by
  rw [setRegister, whenInitialized_of_initialized h, dif_neg (Nat.not_lt_of_le hreg)]

theorem getRegister_of_initialized {s : State} (h : s.initialized = true) (reg : Nat) :
    getRegister reg s = .next (s.respond (.word (if h : reg < 17 then s.readReg ⟨reg, h⟩ else 0))) := by
  rw [getRegister, whenInitialized_of_initialized h]

/-- Settles O53: an index up to 16 names a register, which `writeReg` writes with its shadow. -/
theorem hostReadsAndWritesRegisters : Obligations.HostReadsAndWritesRegisters := by
  intro s reg value rest hinit hb
  have htaken : (s.taking rest).initialized = true := hinit
  refine ⟨fun hr => ?set, fun hr => ?get⟩ <;> rw [step_of_request hb hr, perform]
  case get =>
    rw [getRegister_of_initialized htaken]
    rfl
  case set =>
    rcases Nat.lt_or_ge reg 17 with hlt | hge
    · lift reg to Fin 17 using hlt
      have hshadow (k : Fin 17) (old : Word) : (if reg = k then value else old) = if reg.val = k then value else old :=
        if_congr Fin.ext_iff rfl rfl
      refine ⟨_, setRegister_of_initialized htaken reg value, fun i => ?_, hshadow 13 _, hshadow 14 _, hshadow 15 _,
        rfl, fun h => by omega⟩
      rw [State.respond_readReg, State.readReg_writeReg, State.taking_readReg]
      exact if_congr (eq_comm.trans Fin.ext_iff) rfl rfl
    · exact ⟨_, setRegister_of_ge htaken hge value, fun i => (if_neg (by omega)).symm, (if_neg (by omega)).symm,
        (if_neg (by omega)).symm, (if_neg (by omega)).symm, rfl, fun _ => rfl⟩

/-- Settles O54: register 15 written and read through its own index. -/
theorem setPcAndGetPcMirrorRegisterFifteen : Obligations.SetPcAndGetPcMirrorRegisterFifteen := by
  intro s value rest hinit hb
  have htaken : (s.taking rest).initialized = true := hinit
  refine ⟨fun hr => ?set, fun hr => ?get⟩ <;> rw [step_of_request hb hr, perform]
  case get =>
    rw [getRegister_of_initialized htaken]
    rfl
  case set =>
    refine ⟨_, setRegister_of_initialized htaken 15 value, ?_, rfl, fun i hi => ?_, rfl⟩
    · simp
    · simp [hi.symm]

/-- Settles O56: both are read from the state that is answered. -/
theorem countersAreReadWithoutChange : Obligations.CountersAreReadWithoutChange := by
  intro s rest hinit hb
  have htaken : (s.taking rest).initialized = true := hinit
  refine ⟨fun hr => ?_, fun hr => ?_⟩ <;>
    rw [step_of_request hb hr, perform, whenInitialized_of_initialized htaken] <;> rfl

/-! ### init -/

theorem resetSp_eq_wrap (cap : Nat) : resetSp cap = wrap (cap - 4) := by
  rw [wrap_sub, resetSp, wrap, BitVec.ofInt_natCast]
  rfl

/-- A supported `init` whose allocation succeeds resets everything but the presented transactions and the
parameters (50_host_interface.md R232). -/
theorem initEngine_of_allocated {size : Nat} (hmax : initCapacity size ≤ maxCapacity) (s : State) :
    initEngine size true s =
      .next (({ State.afterInit (initCapacity size) s.params with requests := s.requests }).respond (.ok true)) := by
  rw [initEngine, if_neg (Nat.not_lt_of_le hmax), if_pos rfl]

/-- A supported `init` whose allocation fails leaves the engine uninitialized (50_host_interface.md R233). -/
theorem initEngine_of_not_allocated {size : Nat} (hmax : initCapacity size ≤ maxCapacity) (s : State) :
    initEngine size false s = .next ({ s with initialized := false }.respond (.ok false)) := by
  rw [initEngine, if_neg (Nat.not_lt_of_le hmax), if_neg Bool.false_ne_true]

/-- Settles O40, by what `afterInit` leaves in each register and byte. -/
theorem initResetsEverything : Obligations.InitResetsEverything := by
  intro s size allocOk rest hb hr cap hmax
  refine ⟨?success, ?failure⟩ <;> rintro rfl <;> rw [step_of_request hb hr, perform]
  case success =>
    have hsp : resetSp cap = wrap (cap - 4) := resetSp_eq_wrap cap
    refine ⟨_, initEngine_of_allocated hmax _, rfl, rfl, fun i => ?_, hsp, rfl, rfl, State.afterInit_byteAt cap s.params,
      rfl, rfl, rfl, rfl, rfl, rfl⟩
    rw [← hsp]
    exact State.afterInit_readReg cap s.params i
  case failure =>
    rw [initEngine_of_not_allocated hmax]
    rfl

/-! ### The cases of writeMemory and readMemory -/

section

variable {s : State} {addr : Nat} {data : List Byte} {allocOk : Bool}

/-- An empty write changes nothing (92_eei_decisions.md D24). -/
theorem writeMemory_nil (hinit : s.initialized = true) :
    writeMemory addr [] allocOk s = .next (s.respond (.ok true)) := by
  simp [writeMemory, hinit]

/-- A growth whose allocation fails changes nothing (92_eei_decisions.md D20). -/
theorem writeMemory_of_not_allocated (hinit : s.initialized = true) (hdata : data ≠ [])
    (hgrow : s.cap < addr + data.length) : writeMemory addr data false s = .next (s.respond (.ok false)) := by
  simp [writeMemory, hinit, hdata, hgrow]

/-- A growth to a capacity that is not supported is refused. -/
theorem writeMemory_of_unsupported (hinit : s.initialized = true) (hdata : data ≠ [])
    (hgrow : s.cap < addr + data.length)
    (hlarge : ¬ ((s.hostWrite addr data).cap ≤ maxCapacity ∧ addr + data.length ≤ (s.hostWrite addr data).cap)) :
    writeMemory addr data true s = .refused .capacityUnsupported := by
  rw [not_and_or, not_le, not_le] at hlarge
  simp only [State.hostWrite] at hlarge
  simp [writeMemory, hinit, hdata, hgrow, hlarge]

/-- A write that fits, or that grows the capacity to a supported one that holds it, writes its bytes. -/
theorem writeMemory_of_fits (hinit : s.initialized = true) (hdata : data ≠ [])
    (hfits : s.cap < addr + data.length → allocOk = true ∧ (s.hostWrite addr data).cap ≤ maxCapacity ∧
      addr + data.length ≤ (s.hostWrite addr data).cap) :
    writeMemory addr data allocOk s = .next ((s.hostWrite addr data).respond (.ok true)) := by
  by_cases hgrow : s.cap < addr + data.length
  · obtain ⟨rfl, hmax, hholds⟩ := hfits hgrow
    simp only [State.hostWrite] at hmax hholds
    simp [writeMemory, State.hostWrite, hinit, hdata, Nat.not_lt_of_le hmax, Nat.not_lt_of_le hholds]
  · simp [writeMemory, State.hostWrite, hinit, hdata, hgrow]

end

/-- Everything a `writeMemory` can do: reply and change nothing else, write its bytes, or be refused for the
capacity its growth would reach (50_host_interface.md R234). -/
theorem writeMemory_cases (addr : Nat) (data : List Byte) (allocOk : Bool) (s : State) :
    (∃ ok, writeMemory addr data allocOk s = .next (s.respond (.ok ok)) ∧ (ok = true → data = [])) ∨
    (s.initialized = true ∧
      writeMemory addr data allocOk s = .next ((s.hostWrite addr data).respond (.ok true))) ∨
    (allocOk = true ∧ s.cap < addr + data.length ∧
      writeMemory addr data allocOk s = .refused .capacityUnsupported) := by
  cases hinit : s.initialized with
  | false => exact .inl ⟨false, writeMemory_of_uninitialized hinit .., nofun⟩
  | true =>
    by_cases hdata : data = []
    · subst hdata
      exact .inl ⟨true, writeMemory_nil hinit, fun _ => rfl⟩
    by_cases hgrow : s.cap < addr + data.length
    · cases allocOk with
      | false => exact .inl ⟨false, writeMemory_of_not_allocated hinit hdata hgrow, nofun⟩
      | true =>
        by_cases hfits : (s.hostWrite addr data).cap ≤ maxCapacity ∧
            addr + data.length ≤ (s.hostWrite addr data).cap
        · exact .inr (.inl ⟨rfl, writeMemory_of_fits hinit hdata fun _ => ⟨rfl, hfits⟩⟩)
        · exact .inr (.inr ⟨rfl, hgrow, writeMemory_of_unsupported hinit hdata hgrow hfits⟩)
    · exact .inr (.inl ⟨rfl, writeMemory_of_fits hinit hdata fun h => absurd h hgrow⟩)

theorem State.byteAt_hostWrite {s : State} (hm : Memory.wf s.mem = true) (addr : Nat) {data : List Byte}
    {j : Nat} (h : j < data.length) : (s.hostWrite addr data).byteAt (addr + j) = data[j] := by
  rw [State.byteAt, State.hostWrite, Memory.read_writeBytes data addr hm, if_pos (by omega),
    Nat.add_sub_cancel_left, List.getD_eq_getElem]

theorem State.byteAt_hostWrite_outside {s : State} (hm : Memory.wf s.mem = true) {addr a : Nat} {data : List Byte}
    (h : a < addr ∨ addr + data.length ≤ a) : (s.hostWrite addr data).byteAt a = s.byteAt a := by
  rw [State.byteAt, State.hostWrite, Memory.read_writeBytes data addr hm, if_neg (by omega), State.byteAt]

/-- Settles O50: the doublings are those of `grownCapacity`, and what lies above the old `MEM_SIZE` reads
as unlisted. -/
theorem writeMemoryGrowsAndWrites : Obligations.WriteMemoryGrowsAndWrites := by
  intro s addr data allocOk rest hs hinit hb hr
  obtain ⟨hwf, hbelow, _, _, hpos⟩ := hs
  have htaken : (s.taking rest).initialized = true := hinit
  rw [step_of_request hb hr, perform]
  refine ⟨?empty, ?failure, fun hdata k hk hfewest hmax halloc => ?write⟩
  case empty =>
    rintro rfl
    rw [writeMemory_nil htaken]
    rfl
  case failure =>
    rintro hdata hgrow rfl
    rw [writeMemory_of_not_allocated htaken hdata hgrow]
    rfl
  case write =>
    have hcap : ((s.taking rest).hostWrite addr data).cap = 2 ^ k * s.cap :=
      grownCapacity_eq k s.cap _ (hpos hinit) hk hfewest hmax
    refine ⟨(s.hostWrite addr data).mem, ?_, fun j h => State.byteAt_hostWrite hwf addr h,
      fun a ha => State.byteAt_hostWrite_outside hwf ha, fun a ha hout => ?_⟩
    · rw [writeMemory_of_fits htaken hdata, ← hcap]
      · rfl
      · intro hgrow
        have hk0 : k ≠ 0 := by
          rintro rfl
          rw [Nat.pow_zero, Nat.one_mul] at hk
          exact Nat.not_lt_of_le hk hgrow
        rw [hcap]
        exact ⟨halloc.resolve_left hk0, hmax, hk⟩
    · exact (State.byteAt_hostWrite_outside hwf hout).trans (Memory.read_of_below ha hbelow)

theorem readMemory_of_inRange {s : State} (h : s.initialized = true) {addr len : Nat} (hlen : addr + len ≤ s.memSize) :
    readMemory addr len s = .next (s.respond (.bytes (some (Memory.readBytes s.mem addr len)))) := by
  simp only [readMemory, h, hlen, decide_true, Bool.and_self, if_true]

theorem readMemory_of_not_inRange {s : State} {addr len : Nat} (h : s.initialized = false ∨ s.memSize < addr + len) :
    readMemory addr len s = .next (s.respond (.bytes none)) := by
  rw [readMemory, if_neg]
  rw [Bool.and_eq_true, decide_eq_true_eq]
  rintro ⟨hinit, hlen⟩
  exact h.elim (by simp [hinit]) (Nat.not_lt_of_le hlen)

/-- The bytes written to a canonical memory are the bytes read back. -/
theorem Memory.readBytes_writeBytes {m : List Host.Cell} (hm : Memory.wf m = true) (a : Nat) (bytes : List Byte) :
    Memory.readBytes (Memory.writeBytes m a bytes) a bytes.length = bytes := by
  refine List.ext_getElem (Memory.readBytes_length ..) fun k _ hk => ?_
  rw [List.getElem_eq_iff, Memory.readBytes_getElem? _ _ _ _ hk, Memory.read_writeBytes bytes a hm,
    if_pos (by omega), Nat.add_sub_cancel_left, List.getD_eq_getElem]

/-- A `readMemory` in range replies with the bytes of memory and changes nothing else. -/
theorem step_readMemory {s : State} {addr len : Nat} {rest : List Transaction} (hb : s.batch = none)
    (hr : s.requests = .readMemory addr len :: rest) (hinit : s.initialized = true) (hlen : addr + len ≤ s.memSize)
    {bytes : List Byte} (hbytes : Memory.readBytes s.mem addr len = bytes) :
    step s = .next { s with requests := rest, reply := some (.bytes (some bytes)) } := by
  rw [step_of_request hb hr, perform, readMemory_of_inRange (s := s.taking rest) hinit hlen, ← hbytes]
  rfl

/-- Settles O51: the bytes delivered are those `readBytes` reads. -/
theorem readMemoryDeliversTheBytesInRange : Obligations.ReadMemoryDeliversTheBytesInRange := by
  intro s addr len rest hb hr
  refine ⟨?delivers, fun hout => ?none⟩
  case none =>
    rw [step_of_request hb hr, perform, readMemory_of_not_inRange (s := s.taking rest) hout]
    rfl
  case delivers =>
    rintro ⟨hinit, hlen⟩
    refine ⟨Memory.readBytes s.mem addr len, Memory.readBytes_length .., fun k hk => ?_, ?_,
      step_readMemory hb hr hinit hlen rfl⟩
    · rw [Memory.readBytes_length] at hk
      rw [List.getElem_eq_iff, Memory.readBytes_getElem? _ _ _ _ hk, State.byteAt]
    · rintro m data hm rfl hmem
      rw [hmem, Memory.readBytes_writeBytes hm]

/-- Settles O52: a `writeMemory` of bytes that replies 1 has raised `MEM_SIZE` to their end. -/
theorem writeMemoryThenReadMemoryRoundTrips : Obligations.WriteMemoryThenReadMemoryRoundTrips := by
  intro s t addr data allocOk rest hs hb hdata hr ht hreply
  obtain ⟨hwf, _⟩ := hs
  rw [step_of_request hb hr, perform] at ht
  rcases writeMemory_cases addr data allocOk (s.taking (.readMemory addr data.length :: rest)) with
    ⟨ok, hw, hok⟩ | ⟨hinit, hw⟩ | ⟨_, _, hw⟩ <;> rw [hw] at ht <;> cases ht
  · cases hreply
    exact absurd (hok rfl) hdata
  · have hsize : addr + data.length ≤ max s.memSize (addr + data.length) := Nat.le_max_right ..
    refine step_readMemory ?_ rfl ?_ ?_ ?_
    · exact hb
    · exact hinit
    · exact hsize
    · exact Memory.readBytes_writeBytes hwf addr data

/-! ### Where a step stops -/

theorem stepWord_next (w : Word) (s : State) : ∃ t, stepWord w s = .next t := by
  rcases stepWord_cases w s with ⟨_, t, ht, _⟩ | ⟨_, ht⟩ <;> exact ⟨_, ht⟩

theorem executeInstruction_next (w : Word) (s : State) : ∃ t, executeInstruction w s = .next t := by
  obtain ⟨t, ht⟩ := stepWord_next w s
  exact ⟨_, by rw [executeInstruction, ht, mapNext_next]⟩

theorem stepBatch_cons {w : Word} {s t : State} (h : stepWord w s = .next t) (rest : List Word) (count : Nat) :
    stepBatch ⟨w :: rest, count⟩ s = .next (t.continueBatch rest count) :=
  congrArg (mapNext (State.continueBatch rest count)) h

theorem stepBatch_next (b : Batch) (s : State) : ∃ t, stepBatch b s = .next t := by
  obtain ⟨words, count⟩ := b
  cases words with
  | nil => exact ⟨_, rfl⟩
  | cons w rest =>
    obtain ⟨t, ht⟩ := stepWord_next w s
    exact ⟨_, stepBatch_cons ht rest count⟩

/-- Whether the spec gives the transaction no meaning before `init` (50_host_interface.md R249). -/
def Transaction.needsInit (r : Transaction) : Bool :=
  match r with
  | .setRegister .. | .getRegister _ | .setPC _ | .getPC | .getInstructionCount | .getMemorySize => true
  | _ => false

/-- What holds of a transaction and the state it is performed in when it ends in the outcome: nothing for a
next state, and for each fault and refusal which transactions raise it. -/
def Transaction.StopsIn (r : Transaction) (s : State) (o : Outcome) : Prop :=
  match o with
  | .next _ => True
  | .fault _ => r = .destroy
  | .refused .beforeInit => s.initialized = false ∧ r.needsInit = true
  | .refused .capacityUnsupported =>
    (∃ n b, r = .init n b ∧ 2 ^ 32 < n) ∨ ∃ a d, r = .writeMemory a d true ∧ s.cap < a + d.length
  | .refused (.notModelled _) => False

theorem Transaction.stopsIn_of_next {r : Transaction} {s : State} {o : Outcome} (h : ∃ t, o = .next t) :
    r.StopsIn s o := by
  obtain ⟨t, rfl⟩ := h
  trivial

theorem whenInitialized_stopsIn {r : Transaction} (hr : r.needsInit = true) (s t : State) :
    r.StopsIn s (whenInitialized s (.next t)) := by
  cases hinit : s.initialized with
  | true => rw [whenInitialized_of_initialized hinit]; trivial
  | false => simpa only [whenInitialized, hinit] using ⟨hinit, hr⟩

/-- Only `init` asks for more than the supported capacity by its own size: the default is supported. -/
theorem lt_of_maxCapacity_lt_initCapacity {size : Nat} (h : maxCapacity < initCapacity size) : 2 ^ 32 < size := by
  unfold initCapacity at h
  split at h
  · exact absurd h (by decide)
  · exact h

theorem perform_stopsIn (r : Transaction) (s : State) : r.StopsIn s (perform r s) := by
  cases r with
  | create | readMemory => trivial
  | init size allocOk =>
    rw [perform]
    by_cases hmax : initCapacity size ≤ maxCapacity
    · cases allocOk with
      | true => rw [initEngine_of_allocated hmax]; trivial
      | false => rw [initEngine_of_not_allocated hmax]; trivial
    · rw [initEngine, if_pos (Nat.lt_of_not_le hmax)]
      exact .inl ⟨size, allocOk, rfl, lt_of_maxCapacity_lt_initCapacity (Nat.lt_of_not_le hmax)⟩
  | writeMemory addr data allocOk =>
    rw [perform]
    rcases writeMemory_cases addr data allocOk s with ⟨_, hw, _⟩ | ⟨_, hw⟩ | ⟨rfl, hgrow, hw⟩ <;> rw [hw]
    · trivial
    · trivial
    · exact .inr ⟨addr, data, rfl, hgrow⟩
  | setRegister | setPC | getRegister | getPC | getInstructionCount | getMemorySize =>
    exact whenInitialized_stopsIn rfl s _
  | executeInstruction w => exact Transaction.stopsIn_of_next (executeInstruction_next w s)
  | executeInstructions ws => exact Transaction.stopsIn_of_next (stepBatch_next ⟨ws, 0⟩ s)
  | destroy => rfl

/-- A step answers a next state, or ends as the oldest transaction does. -/
theorem step_stopsIn (s : State) :
    (∃ t, step s = .next t) ∨
    (s.batch = none ∧ ∃ r rest, s.requests = r :: rest ∧ r.StopsIn s (step s)) := by
  cases hb : s.batch with
  | some b =>
    simp only [step, advance, hb]
    exact .inl (stepBatch_next ..)
  | none =>
    cases hr : s.requests with
    | nil => exact .inl ⟨s, by simp only [step, advance, hb, hr]⟩
    | cons r rest =>
      rw [step_of_request hb hr]
      exact .inr ⟨rfl, r, rest, rfl, perform_stopsIn r (s.taking rest)⟩

/-- Settles O49: each stop is one that `StopsIn` names for the oldest transaction. -/
theorem stepStopsOnlyAtMeaninglessTransactions : Obligations.StepStopsOnlyAtMeaninglessTransactions := by
  intro s
  rcases step_stopsIn s with ⟨t, ht⟩ | ⟨hb, r, rest, hr, hstop⟩
  · rw [ht]
    exact ⟨nofun, nofun, nofun, nofun⟩
  · refine ⟨fun f h => ?_, fun h => ?_, fun h => ?_, fun m h => ?_⟩ <;> rw [h] at hstop
    · exact ⟨hb, rest, hr.trans (congrArg (· :: rest) hstop)⟩
    · obtain ⟨hinit, hneeds⟩ := hstop
      refine ⟨hinit, hb, rest, ?_⟩
      rw [hr]
      cases r with
      | setRegister k v => exact .inl ⟨k, v, rfl⟩
      | getRegister k => exact .inr (.inl ⟨k, rfl⟩)
      | setPC v => exact .inr (.inr (.inl ⟨v, rfl⟩))
      | getPC => exact .inr (.inr (.inr (.inl rfl)))
      | getInstructionCount => exact .inr (.inr (.inr (.inr (.inl rfl))))
      | getMemorySize => exact .inr (.inr (.inr (.inr (.inr rfl))))
      | _ => cases hneeds
    · refine ⟨hb, rest, ?_⟩
      rcases hstop with ⟨n, b, rfl, hn⟩ | ⟨a, d, rfl, hgrow⟩
      · exact .inl ⟨n, b, hr, hn⟩
      · exact .inr ⟨a, d, hr, hgrow⟩
    · exact hstop

/-! ### The batch in progress has a word left -/

theorem continueBatch_batchWf (s : State) (rest : List Word) (count : Nat) : (s.continueBatch rest count).BatchWf := by
  unfold State.continueBatch
  split
  · cases rest <;> rfl
  · rfl

theorem stepBatch_batchWf {b : Batch} {s t : State} (h : stepBatch b s = .next t) : t.BatchWf := by
  obtain ⟨words, count⟩ := b
  cases words with
  | nil => cases h; rfl
  | cons w rest =>
    obtain ⟨u, _, rfl⟩ := mapNext_eq_next h
    exact continueBatch_batchWf u rest count

theorem executeInstruction_batch {w : Word} {s t : State} (h : executeInstruction w s = .next t) :
    t.batch = s.batch := by
  obtain ⟨u, hu, rfl⟩ := mapNext_eq_next h
  rcases stepWord_cases w s with ⟨_, v, hv, _, hkept⟩ | ⟨_, hv⟩ <;> rw [hv] at hu <;> cases hu
  · exact hkept.batch
  · rfl

theorem writeMemory_batch {addr : Nat} {data : List Byte} {allocOk : Bool} {s t : State}
    (h : writeMemory addr data allocOk s = .next t) : t.batch = s.batch := by
  rcases writeMemory_eq_next h with ⟨r, rfl⟩ | ⟨_, _, _, rfl⟩ <;> rfl

theorem setRegister_batch {reg : Nat} {value : Word} {s t : State} (h : setRegister reg value s = .next t) :
    t.batch = s.batch := by
  obtain ⟨_, h⟩ := whenInitialized_eq_next h
  split at h <;> cases h <;> rfl

theorem initEngine_batchWf {size : Nat} {allocOk : Bool} {s t : State} (hs : s.BatchWf)
    (h : initEngine size allocOk s = .next t) : t.BatchWf := by
  obtain ⟨_, ⟨_, rfl⟩ | ⟨_, rfl⟩⟩ := initEngine_eq_next h
  · rfl
  · exact hs

theorem State.BatchWf.of_batch_eq {s t : State} (hs : s.BatchWf) (h : t.batch = s.batch) : t.BatchWf := by
  rwa [State.BatchWf, h]

theorem perform_batchWf {r : Transaction} {s t : State} (hs : s.BatchWf) (h : perform r s = .next t) :
    t.BatchWf := by
  cases r with
  | create | readMemory => cases h; exact hs
  | init => exact initEngine_batchWf hs h
  | writeMemory => exact hs.of_batch_eq (writeMemory_batch h)
  | setRegister | setPC => exact hs.of_batch_eq (setRegister_batch h)
  | getRegister | getPC | getInstructionCount | getMemorySize =>
    obtain ⟨_, h⟩ := whenInitialized_eq_next h
    cases h
    exact hs
  | executeInstruction => exact hs.of_batch_eq (executeInstruction_batch h)
  | executeInstructions => exact stepBatch_batchWf h
  | destroy => cases h

/-- Settles O38, by the cases of a step: `continueBatch` alone leaves a batch in progress. -/
theorem stepKeepsTheBatchNonEmpty : Obligations.StepKeepsTheBatchNonEmpty := by
  intro s t hs h
  rcases step_eq_next h with ⟨b, _, hb⟩ | ⟨_, _, rfl⟩ | ⟨r, rest, _, _, hr⟩
  · exact stepBatch_batchWf hb
  · exact hs
  · exact perform_batchWf (s := s.taking rest) hs hr

/-! ### A batch as the spec's loop -/

/-- The state a batch leaves: over, with its count replied (50_host_interface.md R244). -/
def State.endBatch (count : Nat) (s : State) : State := { s with batch := none, reply := some (.count count) }

theorem StepResult.ok_iff (r : StepResult) : r.ok = true ↔ r = .succeeded := by
  cases r <;> simp [StepResult.ok]

theorem continueBatch_of_failed {s : State} (h : s.result ≠ .succeeded) (rest : List Word) (count : Nat) :
    s.continueBatch rest count = s.endBatch count := by
  unfold State.continueBatch
  rw [if_neg (mt (StepResult.ok_iff _).1 h)]
  rfl

theorem continueBatch_nil {s : State} (h : s.result = .succeeded) (count : Nat) :
    s.continueBatch [] count = s.endBatch (count + 1) := by
  simp only [State.continueBatch, (StepResult.ok_iff _).2 h, if_true]
  rfl

theorem continueBatch_cons {s : State} (h : s.result = .succeeded) (w : Word) (rest : List Word) (count : Nat) :
    s.continueBatch (w :: rest) count = s.withBatch (some ⟨w :: rest, count + 1⟩) := by
  simp only [State.continueBatch, (StepResult.ok_iff _).2 h, if_true]
  rfl

theorem continueBatch_withBatch (b : Option Batch) (s : State) (rest : List Word) (count : Nat) :
    (s.withBatch b).continueBatch rest count = s.continueBatch rest count := by
  unfold State.continueBatch
  cases rest <;> rfl

/-- A word of a batch reads nothing of the batch the state has in progress, and replaces it. -/
theorem stepBatch_withBatch (b : Batch) (c : Option Batch) (s : State) :
    stepBatch b (s.withBatch c) = stepBatch b s := by
  obtain ⟨words, count⟩ := b
  cases words with
  | nil => rfl
  | cons w rest =>
    obtain ⟨t, ht⟩ := stepWord_next w s
    have hc : stepWord w (s.withBatch c) = .next (t.withBatch c) := by rw [stepWord_withBatch, ht, mapNext_next]
    rw [stepBatch_cons ht, stepBatch_cons hc, continueBatch_withBatch]

theorem step_withBatch {s : State} (hs : s.reply = none) (b : Batch) :
    step (s.withBatch (some b)) = stepBatch b s := by
  have hclear : { s.withBatch (some b) with reply := none } = s.withBatch (some b) := by
    rw [← hs]; rfl
  rw [← stepBatch_withBatch b (some b), ← hclear]
  rfl

theorem stepWord_reply {w : Word} {s t : State} (h : stepWord w s = .next t) : t.reply = s.reply := by
  rcases stepWord_cases w s with ⟨_, u, hu, _, hkept⟩ | ⟨_, hu⟩ <;> rw [hu] at h <;> cases h
  · exact hkept.reply
  · rfl

theorem batchLoop_of_failed {w : Word} {s t : State} (h : stepWord w s = .next t) (hf : t.result ≠ .succeeded)
    (rest : List Word) : batchLoop (w :: rest) s = (0, t) := by
  simp only [batchLoop, h, if_neg hf]

theorem batchLoop_of_succeeded {w : Word} {s t : State} (h : stepWord w s = .next t) (hok : t.result = .succeeded)
    (rest : List Word) : batchLoop (w :: rest) s = ((batchLoop rest t).1 + 1, (batchLoop rest t).2) := by
  simp only [batchLoop, h, if_pos hok]

/-- The batch `ws` in progress after `count` successes runs to its end, at most one step a word, and leaves
what the spec's loop leaves. -/
theorem run_batch (ws : List Word) (count : Nat) {s : State} (hs : s.reply = none) :
    ∃ n, n + 1 ≤ max 1 ws.length ∧ core.run (n + 1) (s.withBatch (some ⟨ws, count⟩)) =
      .next ((batchLoop ws s).2.endBatch (count + (batchLoop ws s).1)) := by
  induction ws generalizing count s with
  | nil =>
    refine ⟨0, Nat.le_refl 1, ?_⟩
    rw [run_succ (step_withBatch hs _)]
    rfl
  | cons w rest ih =>
    obtain ⟨t, ht⟩ := stepWord_next w s
    have hstep : step (s.withBatch (some ⟨w :: rest, count⟩)) = .next (t.continueBatch rest count) := by
      rw [step_withBatch hs, stepBatch_cons ht]
    by_cases hok : t.result = .succeeded
    · rw [batchLoop_of_succeeded ht hok]
      cases rest with
      | nil =>
        refine ⟨0, Nat.le_refl 1, ?_⟩
        rw [run_succ hstep, continueBatch_nil hok]
        rfl
      | cons w' rest =>
        obtain ⟨n, hn, hrun⟩ := ih (count + 1) ((stepWord_reply ht).trans hs)
        refine ⟨n + 1, ?_, ?_⟩
        · simp only [List.length_cons] at hn ⊢
          omega
        · rw [run_succ hstep, continueBatch_cons hok, hrun, Nat.add_right_comm, Nat.add_assoc]
    · refine ⟨0, Nat.le_max_left .., ?_⟩
      rw [batchLoop_of_failed ht hok, run_succ hstep, continueBatch_of_failed hok]
      rfl

/-- A run of at least one step depends on its first state by that state's step alone. -/
theorem run_succ_congr {s t : State} (h : step s = step t) (n : Nat) : core.run (n + 1) s = core.run (n + 1) t := by
  have h' : core.step s = core.step t := h
  simp only [Host.Core.run, h']

/-- Settles O55: taking the transaction is a step of the whole sequence as a batch in progress. -/
theorem batchCountsSuccessesUntilTheFirstFailure : Obligations.BatchCountsSuccessesUntilTheFirstFailure := by
  intro s ws rest hb hr start
  have hfirst : step s = step (start.withBatch (some ⟨ws, 0⟩)) := by
    rw [step_of_request hb hr, step_withBatch rfl]
    rfl
  obtain ⟨n, hn, hrun⟩ := run_batch ws 0 (s := start) rfl
  refine ⟨n + 1, Nat.succ_pos n, hn, ?_⟩
  rw [run_succ_congr hfirst, hrun, Nat.zero_add]
  rfl

end Sys2Proof.Machine
end

section
/-! The exception family (60_exceptions.md): what an instruction that fails leaves unchanged and which causes it
can record, and the step of a block that is asked nothing. -/

namespace Sys2Proof.Machine

open Sys2Proof.Claims

/-! ### What a failure leaves -/

/-- The cause with which an instruction can fail (60_exceptions.md R260). -/
def Cause.Fits (cause : Cause) (i : Instr) : Prop :=
  (cause = .illegalInstruction ∧ isIllegal i) ∨ (cause = .accessOutOfRange ∧ isLoadStore i)

/-- An access has one way to fail: its range (60_exceptions.md R260). -/
theorem access_of_failed {op : LsOp} {pre up : Bool} {rn rd : RegNum} {offset : Word} {s : State} {cause : Cause}
    (h : (access op pre up rn rd offset s).result = .failed cause) :
    cause = .accessOutOfRange ∧ access op pre up rn rd offset s = s.fail cause := by
  rcases access_succeeds_or_fails op pre up rn rd offset s with hok | hfail
  · rw [hok] at h
    cases h
  · rw [hfail] at h
    cases h
    exact ⟨rfl, hfail⟩

/-- An effect that fails is the failure alone, with a cause that fits its format: data processing and
branches always succeed. -/
theorem effect_of_failed {i : Instr} {s : State} {cause : Cause}
    (h : (effect i.toForm s).result = .failed cause) : effect i.toForm s = s.fail cause ∧ cause.Fits i := by
  unfold Cause.Fits isIllegal isLoadStore
  cases hf : i.toForm <;> rw [hf] at h
  case dpRsi | dpRsr | br => cases h
  case lsImm | lsReg =>
    obtain ⟨hcause, hfail⟩ := access_of_failed h
    exact ⟨hfail, .inr ⟨hcause, trivial⟩⟩
  case none =>
    cases h
    exact ⟨rfl, .inl ⟨rfl, trivial⟩⟩

/-- Settles O46, by everything an instruction can do: its effect, a skip, which succeeds, or the failure of an
illegal word met before its condition. -/
theorem failingInstructionChangesNothing : Obligations.FailingInstructionChangesNothing := by
  intro i s t cause h hr
  rcases exec_cases i s with ⟨_, hx⟩ | ⟨_, hx⟩ | ⟨_, _, ⟨c, g, hf⟩, hx⟩ <;> rw [hx] at h <;> cases h
  · exact effect_of_failed hr
  · cases hr
  · cases hr
    exact ⟨rfl, .inl ⟨rfl, isIllegal_of_toForm hf⟩⟩

/-! ### The idle block -/

/-- Settles O60: the step has no word of a batch and no transaction to take. -/
theorem idleEngineStaysAsItIs : Obligations.IdleEngineStaysAsItIs := by
  intro s hr hb
  simp only [step, advance, hb, hr]

end Sys2Proof.Machine
end
